-- ==== Sys2Proof/Word.lean ====
section
/-! DEFINITION. The value types of the tds1 bus core: octets, messages, line levels (00_scope.md R9)
and the twelve values of `tx.state` (30_encoding.md R64). -/

namespace Sys2Proof

/-- 8 bits; bit 7 is the most significant (R9). -/
abbrev Octet := BitVec 8

/-- 7 octets `m[0] .. m[6]` in the order supplied (R60). -/
abbrev Message := Vector Octet 7

/-- The electrical state of a line (R9); kept apart from logical bits, which are `Bool` (`true` is 1). -/
inductive Level where
  | low
  | high
deriving DecidableEq, Repr

/-- The three output lines (R16). -/
inductive Line where
  | enable
  | clock
  | data
deriving DecidableEq, Repr

/-- The twelve values of `tx.state` (R64). The reserved codes 12..15 have no value here (R69). -/
inductive TxState where
  | rest
  | start
  | enHiA
  | enLoA
  | enHiB
  | bit
  | clk
  | rgap
  | renLo
  | renHi
  | endSeq
  | disabled
deriving DecidableEq, Repr

end Sys2Proof
end

