-- ==== Sys2Proof/Config.lean ====
section
/-! DEFINITION. The constants of a build (00_scope.md section 4, 10_state.md R28), and the one OPEN value
that can be seen, `CHANGE_PRIME`, as a constant without a body. -/

namespace Sys2Proof

/-- `RX_EDGE` (R122): which transition of CLOCK triggers a capture. -/
inductive RxEdge where
  | rising
  | falling
deriving DecidableEq, Repr

/-- `RESET_TX_STATE` (R180): the only two TX states the spec allows after RESET (R181). -/
inductive ResetTxState where
  | rest
  | disabled
deriving DecidableEq, Repr

/-- The configuration of a build (R28). Plain data held in the state, so that every statement about
every state is a statement about every build (93 U1). -/
structure Config where
  t40 : Nat
  t60 : Nat
  t65 : Nat
  t100 : Nat
  tEndHold : Nat
  timerMax : Nat
  changePrime : BitVec 8
  rxEdge : RxEdge
  loopback : Bool
  resetTxState : ResetTxState
deriving DecidableEq, Repr

namespace Config

/-- `CHANGE_PRIME` of the build `State.reset` describes: OPEN in the spec (D23), so no value is known. -/
opaque openChangePrime : BitVec 8

/-- Build A of R5 with the defaults of 00_scope.md section 4 (DESIGN CHOICE, log 1). `TIMER_MAX` is OPEN (D14):
the least legal value, which no legal build can tell from a larger one (log 2). -/
def buildA : Config where
  t40 := 92
  t60 := 138
  t65 := 150
  t100 := 230
  tEndHold := 0
  timerMax := 230
  changePrime := openChangePrime
  rxEdge := .rising
  loopback := false
  resetTxState := .rest

/-- Build B of R5 with the same defaults (log 1, log 2). -/
def buildB : Config where
  t40 := 74
  t60 := 111
  t65 := 120
  t100 := 184
  tEndHold := 0
  timerMax := 184
  changePrime := openChangePrime
  rxEdge := .rising
  loopback := false
  resetTxState := .rest

end Config

end Sys2Proof
end

