-- ==== Sys2Proof/Syntax.lean ====
section
/-! DEFINITION. The instructions: one constructor per row of spec/opcode_table.json. The eleven
operations of the core (30_encoding.md R70) and the twelve TX states, micro-instructions of the TX
sequencer (41_tx_states.md R100 to R111). -/

namespace Sys2Proof

inductive Instr where
  | reset
  | send (m : Message)
  | expire
  | edgeL
  | edgeH
  | poll
  | pbegin
  | pcmp
  | pend
  | busoff
  | buson
  | txRest
  | txStart
  | txEnHiA
  | txEnLoA
  | txEnHiB
  | txBit
  | txClk
  | txRgap
  | txRenLo
  | txRenHi
  | txEnd
  | txDisabled
deriving DecidableEq, Repr

end Sys2Proof
end

