-- ==== Sys2Proof/WellFormed.lean ====
section
/-! DEFINITION. Well-formedness: of an instruction (by type) and of a build's configuration (R7, R28). -/

namespace Sys2Proof

/-- Every operand value is legal (R71: every message; R80 corner case (a)): a message has 7 octets by its
type, and no other instruction has an operand. -/
def Instr.wf : Instr → Bool
  | .send _ => true
  | .reset | .expire | .edgeL | .edgeH | .poll | .pbegin | .pcmp | .pend | .busoff | .buson => true
  | .txRest | .txStart | .txEnHiA | .txEnLoA | .txEnHiB | .txBit | .txClk | .txRgap | .txRenLo | .txRenHi
  | .txEnd | .txDisabled => true

namespace Config

/-- One tick count of the table is legal: in 1..`TIMER_MAX` (R7, R28). -/
def tickWf (c : Config) (t : Nat) : Bool := decide (1 ≤ t) && decide (t ≤ c.timerMax)

/-- The legal values of R28: `T40`, `T60`, `T65`, `T100` in 1..`TIMER_MAX`, `T_ENDHOLD` in
0..`TIMER_MAX`. `CHANGE_PRIME`, `RX_EDGE`, `LOOPBACK` and `RESET_TX_STATE` are legal by type. -/
def wf (c : Config) : Bool :=
  c.tickWf c.t40 && c.tickWf c.t60 && c.tickWf c.t65 && c.tickWf c.t100 && decide (c.tEndHold ≤ c.timerMax)

end Config

end Sys2Proof
end

