-- ==== Sys2Proof/Decode.lean ====
section
/-! DEFINITION. The decoder of the trace encoding (30_encoding.md R70, R71) and of the TX state codes (R64),
total and rejecting by name, then the encoder written from the same tables. -/

namespace Sys2Proof

/-- Why a string of octets, or a TX state code, is not an instruction. -/
inductive DecodeError where
  /-- a reserved trace opcode, `0x03` or `0x0C`..`0xFF` (R70; 93 V4). -/
  | reservedOpcode (opcode : Octet)
  /-- a SEND with fewer than 7 operand octets (R70; 93 V4); `present` counts those there are. -/
  | truncatedSend (present : Nat)
  /-- a reserved `tx.state` code, 12..15 (R69; 93 V1). -/
  | reservedTxState (code : BitVec 4)
  /-- octets stand after the one instruction that was asked for. -/
  | trailingOctets (count : Nat)
  /-- there is no octet at all. -/
  | emptyTrace
deriving DecidableEq, Repr

/-- The 4-bit code of a TX state (R64). -/
def TxState.code : TxState → BitVec 4
  | .rest => 0
  | .start => 1
  | .enHiA => 2
  | .enLoA => 3
  | .enHiB => 4
  | .bit => 5
  | .clk => 6
  | .rgap => 7
  | .renLo => 8
  | .renHi => 9
  | .endSeq => 10
  | .disabled => 11

/-- The TX state a 4-bit code names; none for the reserved codes 12..15 (R64, R69). -/
def TxState.ofCode (w : BitVec 4) : Option TxState :=
  match w.toNat with
  | 0 => some .rest
  | 1 => some .start
  | 2 => some .enHiA
  | 3 => some .enLoA
  | 4 => some .enHiB
  | 5 => some .bit
  | 6 => some .clk
  | 7 => some .rgap
  | 8 => some .renLo
  | 9 => some .renHi
  | 10 => some .endSeq
  | 11 => some .disabled
  | _ => none

/-- The micro-instruction that evaluates a TX state (the table's rows TX.REST .. TX.DISABLED). -/
def TxState.instr : TxState → Instr
  | .rest => .txRest
  | .start => .txStart
  | .enHiA => .txEnHiA
  | .enLoA => .txEnLoA
  | .enHiB => .txEnHiB
  | .bit => .txBit
  | .clk => .txClk
  | .rgap => .txRgap
  | .renLo => .txRenLo
  | .renHi => .txRenHi
  | .endSeq => .txEnd
  | .disabled => .txDisabled

/-- The TX state a micro-instruction evaluates; none for the eleven operations. -/
def Instr.txState : Instr → Option TxState
  | .txRest => some .rest
  | .txStart => some .start
  | .txEnHiA => some .enHiA
  | .txEnLoA => some .enLoA
  | .txEnHiB => some .enHiB
  | .txBit => some .bit
  | .txClk => some .clk
  | .txRgap => some .rgap
  | .txRenLo => some .renLo
  | .txRenHi => some .renHi
  | .txEnd => some .endSeq
  | .txDisabled => some .disabled
  | .reset | .send _ | .expire | .edgeL | .edgeH | .poll | .pbegin | .pcmp | .pend | .busoff | .buson => none

/-- The micro-instruction a 4-bit TX state code stands for (R64). -/
def decodeTxState (w : BitVec 4) : Except DecodeError Instr :=
  match TxState.ofCode w with
  | some x => .ok x.instr
  | none => .error (.reservedTxState w)

/-- The operand octets of a SEND, `m[0]` first, and the octets after them (R71, format OP7). -/
def decodeSend : List Octet → Except DecodeError (Instr × List Octet)
  | m0 :: m1 :: m2 :: m3 :: m4 :: m5 :: m6 :: rest => .ok (.send #v[m0, m1, m2, m3, m4, m5, m6], rest)
  | short => .error (.truncatedSend short.length)

/-- The first operation of a string of octets and the octets after it. The first octet alone decides the
length (R71); a reserved opcode is refused, not skipped (R70). -/
def decodeTrace : List Octet → Except DecodeError (Instr × List Octet)
  | [] => .error .emptyTrace
  | o :: rest =>
    match o.toNat with
    | 0x00 => .ok (.reset, rest)
    | 0x01 => decodeSend rest
    | 0x02 => .ok (.expire, rest)
    | 0x04 => .ok (.edgeL, rest)
    | 0x05 => .ok (.edgeH, rest)
    | 0x06 => .ok (.poll, rest)
    | 0x07 => .ok (.pbegin, rest)
    | 0x08 => .ok (.pcmp, rest)
    | 0x09 => .ok (.pend, rest)
    | 0x0A => .ok (.busoff, rest)
    | 0x0B => .ok (.buson, rest)
    | _ => .error (.reservedOpcode o)

/-- Decodes at most `fuel` operations; every operation takes at least one octet, so the number of octets
is fuel enough. -/
def decodeAllFuel : Nat → List Octet → Except DecodeError (List Instr)
  | _, [] => .ok []
  | 0, _ :: _ => .error .emptyTrace
  | fuel + 1, o :: rest =>
    match decodeTrace (o :: rest) with
    | .error e => .error e
    | .ok (i, rest') =>
      match decodeAllFuel fuel rest' with
      | .error e => .error e
      | .ok is => .ok (i :: is)

/-- A whole trace: its list of operations, or the first refusal (R70: the decoder of traces is total). -/
def decodeAll (bs : List Octet) : Except DecodeError (List Instr) := decodeAllFuel bs.length bs

/-- Where an instruction's bits stand: octets of a trace (R71), or the 4-bit field `tx.state` (R64). -/
inductive Encoding where
  | octets (bs : List Octet)
  | txCode (w : BitVec 4)
deriving DecidableEq, Repr

/-- The one instruction an encoding holds. -/
def decode : Encoding → Except DecodeError Instr
  | .txCode w => decodeTxState w
  | .octets bs =>
    match decodeTrace bs with
    | .error e => .error e
    | .ok (i, []) => .ok i
    | .ok (_, o :: rest) => .error (.trailingOctets (o :: rest).length)

/-- The octets of an operation (R70, R71); none for a TX state, which no trace holds. -/
def encodeTrace : Instr → List Octet
  | .reset => [0x00]
  | .send m => [0x01, m[0], m[1], m[2], m[3], m[4], m[5], m[6]]
  | .expire => [0x02]
  | .edgeL => [0x04]
  | .edgeH => [0x05]
  | .poll => [0x06]
  | .pbegin => [0x07]
  | .pcmp => [0x08]
  | .pend => [0x09]
  | .busoff => [0x0A]
  | .buson => [0x0B]
  | .txRest | .txStart | .txEnHiA | .txEnLoA | .txEnHiB | .txBit | .txClk | .txRgap | .txRenLo | .txRenHi
  | .txEnd | .txDisabled => []

/-- The words of an instruction. -/
def encode (i : Instr) : Encoding :=
  match i.txState with
  | some x => .txCode x.code
  | none => .octets (encodeTrace i)

/-- Octet `k` (0 first) of an instruction of `n` octets whose bits are `w`. The table numbers the bits of
SEND with octet 0 most significant (R71), so octet `k` is bits `8(n-1-k)+7 .. 8(n-1-k)`. -/
def tableOctet (n w k : Nat) : Octet := BitVec.ofNat 8 (w >>> (8 * (n - 1 - k)))

/-- The octets of an instruction of `nbits` bits, then zeros up to the longest instruction (8 octets). -/
def tableOctets (nbits w : Nat) : List Octet :=
  let n := (nbits + 7) / 8
  (List.range n).map (tableOctet n w) ++ List.replicate (8 - n) 0

/-- The instruction the decoder reads from bits numbered as spec/opcode_table.json numbers them. The rows of
format TXSTATE have 4 bits and are codes of `tx.state`; all others are octets of a trace (log 10). -/
def decodeTableWord (nbits w : Nat) : Option Instr :=
  if nbits ≤ 4 then
    if w < 16 then (decodeTxState (BitVec.ofNat 4 w)).toOption else none
  else
    match decodeTrace (tableOctets nbits w) with
    | .ok (i, _) => some i
    | .error _ => none

end Sys2Proof
end

