-- ==== Sys2Proof/Machine/State.lean ====
section
/-! DEFINITION. Everything the spec gives the core to hold (10_state.md R10), the model's own fields, the
reasons a step can stop, and the state right after RESET (R30). -/

namespace Sys2Proof.Machine

/-- `TxSession` (R11 to R15). -/
structure TxSession where
  /-- the TX state the next invocation of the TX routine evaluates (R11) -/
  state : TxState
  /-- 0..55; 56..63 are reserved and have no value here (R12, R69) -/
  bitCursor : Fin 56
  /-- `tx.repeat`: the second pass is under way (R13) -/
  repeatFlag : Bool
  /-- the session's copy of the message (R14) -/
  buffer : Message
deriving DecidableEq, Repr

/-- The output latches (R16). -/
structure Lines where
  enable : Level
  clock : Level
  data : Level
deriving DecidableEq, Repr

/-- The Timing Source (R17). -/
structure Timer where
  armed : Bool
  remaining : Nat
deriving DecidableEq, Repr

/-- `RxRing`, its write cursor and the shared dirty flag (R19 to R21). -/
structure RxRing where
  ring : Vector Bool 112
  cursor : Fin 112
  dirty : Bool
deriving DecidableEq, Repr

/-- The input lines as the environment drives them (R22). -/
structure InputLines where
  clock : Level
  data : Level
deriving DecidableEq, Repr

/-- `ValidatedMessage` (R23 to R26). -/
structure ValidatedMessage where
  lastValid : Message
  isValid : Bool
  lastChange : Message
  changeCounter : BitVec 8
deriving DecidableEq, Repr

/-- The working values of a poll (R27). -/
structure Scan where
  active : Bool
  base : Fin 112
  i : Fin 57
  seen0 : Bool
  ok01 : Bool
  snap : Vector Bool 56
deriving DecidableEq, Repr

/-- A call of the platform capability interface (R165), or the hook event (R88). -/
inductive Call where
  | setLine (line : Line) (level : Level)
  | readData (level : Level)
  | armTimer (ticks : Nat)
  | disarmTimer
  | hook
deriving DecidableEq, Repr

/-- The outcomes operations return (R68, R152); `noMessage` is `None`, `message m` is `Some(m)`. -/
inductive Result where
  | accepted
  | busy
  | noMessage
  | message (m : Message)
deriving DecidableEq, Repr

/-- What the latest operation showed at the block's boundary (the model's own record, log 8). -/
structure Port where
  calls : List Call
  result : Option Result
deriving DecidableEq, Repr

/-- The core. -/
structure State where
  tx : TxSession
  lines : Lines
  timer : Timer
  /-- `out.hook_count`, a ghost (R18) -/
  hookCount : Nat
  rx : RxRing
  inp : InputLines
  val : ValidatedMessage
  scan : Scan
  /-- the constants of the build (R28); no operation writes them -/
  config : Config
  /-- the model's own: boundary record of the latest operation (log 8) -/
  port : Port
  /-- the model's own: the TX routine is between two evaluations of one operation (log 9) -/
  routineActive : Bool
  /-- the model's own: the octets of the operations still to come (R70; log 5) -/
  trace : List Octet
deriving DecidableEq, Repr

/-- The core has no fault state: "Nothing in this core is fatal" (R152; log 19). -/
inductive Fault where
deriving DecidableEq, Repr

/-- Why the model has no step. All are safe: the model stops where the spec gives no step. -/
inductive Refusal where
  /-- exec's arm of an instruction that has no meaning yet; raised by no other definition. Safe. -/
  | notModelled (mnemonic : String)
  /-- step, when the trace's next octets are no operation (R70; 93 V4). Safe. -/
  | undecodable (e : DecodeError)
  /-- EXPIRE with `timer.armed = 0` (R81; 93 V6). Safe. -/
  | expireNotArmed
  /-- PBEGIN, or the PBEGIN of a POLL, while a scan is active (R131; 93 V6). Safe. -/
  | scanAlreadyActive
  /-- PCMP with no scan active or after 56 pairs (R132; 93 V6). Safe. -/
  | pcmpNotAdmitted
  /-- PEND with no scan active or before 56 pairs (R133; 93 V6). Safe. -/
  | pendNotAdmitted
  /-- `arm` while the timer is armed (R161; 93 V5). Safe. -/
  | armWhileArmed
  /-- `arm` of 0 ticks or of more than `TIMER_MAX` (R161; 93 V5). Safe. -/
  | armTicksOutOfRange
  /-- the TX routine after more evaluations than R84 allows; only a build whose tick table breaks R7 gets here. Safe. -/
  | routineOverrun
  /-- step, for a TASK operation other than the scan's own inside a scan (R130, R156). Safe. -/
  | taskOperationInsideScan
  /-- the port view, when more than one operation is requested at once (R166). Safe. -/
  | simultaneousRequests
deriving DecidableEq, Repr

/-- Every field at its value of R30 for the build `c`, on a core whose lines stood at `l` (R180: with
`RESET_TX_STATE = DISABLED` the lines are left untouched), with inputs `inp` (R22: no reset value) and the
operations `trace` still to come. -/
def State.resetOf (c : Config) (l : Lines) (inp : InputLines) (trace : List Octet) : State where
  tx :=
    { state := match c.resetTxState with | .rest => .rest | .disabled => .disabled
      bitCursor := 0
      repeatFlag := false
      buffer := Vector.replicate 7 0 }
  lines := match c.resetTxState with | .rest => { enable := .low, clock := .high, data := .high } | .disabled => l
  timer := { armed := false, remaining := 0 }
  hookCount := 0
  rx := { ring := Vector.replicate 112 false, cursor := 0, dirty := false }
  inp := inp
  val :=
    { lastValid := Vector.replicate 7 0
      isValid := false
      lastChange := Vector.replicate 7 0
      changeCounter := 0 }
  scan := { active := false, base := 0, i := 0, seen0 := false, ok01 := false, snap := Vector.replicate 56 false }
  config := c
  port :=
    { calls :=
        match c.resetTxState with
        | .rest => [.setLine .enable .low, .setLine .clock .high, .setLine .data .high]
        | .disabled => []
      result := none }
  routineActive := false
  trace := trace

/-- The core of build A right after RESET (R30), inputs high (DESIGN CHOICE, log 4), no operation given yet
(log 5). -/
def State.reset : State :=
  State.resetOf Config.buildA { enable := .low, clock := .high, data := .high } { clock := .high, data := .high } []

end Sys2Proof.Machine
end

