-- ==== Sys2Proof/Machine/Operands.lean ====
section
/-! DEFINITION. The operand forms: levels and logical bits (R9), message bits (R60), the TX bit fetch (R42),
the ring cells (R44), `Pack` (R63), and the port form of a message (R166). -/

namespace Sys2Proof.Machine

/-- `lvl(b)`: DATA is inverted, logical 1 is low (R9). -/
def lvl : Bool → Level
  | true => .low
  | false => .high

/-- `bit(v)`: low is logical 1 (R9). -/
def bitOf : Level → Bool
  | .low => true
  | .high => false

/-- `mbit(m, c)` is `m[c div 8][7 - (c mod 8)]` (R9, R60). -/
def mbit (m : Message) (c : Fin 56) : Bool :=
  (m[c.val / 8]'(by omega)).getLsbD (7 - c.val % 8)

/-- `BufBit(c)`, the TX bit fetch (R42). -/
def bufBit (s : State) (c : Fin 56) : Bool := mbit s.tx.buffer c

/-- The index `j mod 112` (R44, R67). -/
def ringIndex (j : Nat) : Fin 112 := ⟨j % 112, Nat.mod_lt _ (by decide)⟩

/-- `RingRead(j)` (R44). -/
def ringRead (s : State) (j : Nat) : Bool := s.rx.ring[ringIndex j]

/-- `RingWrite(j, b)` (R44): the one cell named, and nothing else. -/
def ringWrite (j : Nat) (b : Bool) (s : State) : State :=
  { s with rx.ring := s.rx.ring.set (ringIndex j).val b (ringIndex j).isLt }

/-- The older half's cell of pair `i` of a scan (R67). -/
def olderBit (s : State) (i : Nat) : Bool := ringRead s (s.scan.base.val + i)

/-- The newer half's cell of pair `i` of a scan (R67). -/
def newerBit (s : State) (i : Nat) : Bool := ringRead s (s.scan.base.val + i + 56)

/-- The octet whose bits 7..0 are `b7`..`b0`. -/
def octetOfBits (b7 b6 b5 b4 b3 b2 b1 b0 : Bool) : Octet :=
  BitVec.ofBool b7 ++ BitVec.ofBool b6 ++ BitVec.ofBool b5 ++ BitVec.ofBool b4 ++ BitVec.ofBool b3 ++
    BitVec.ofBool b2 ++ BitVec.ofBool b1 ++ BitVec.ofBool b0

/-- Octet `k` of `Pack(s)`: bit `7 - j` is `s[8k + j]` (R63). -/
def packOctet (s : Vector Bool 56) (k : Fin 7) : Octet :=
  octetOfBits (s[8 * k.val]'(by omega)) (s[8 * k.val + 1]'(by omega)) (s[8 * k.val + 2]'(by omega))
    (s[8 * k.val + 3]'(by omega)) (s[8 * k.val + 4]'(by omega)) (s[8 * k.val + 5]'(by omega))
    (s[8 * k.val + 6]'(by omega)) (s[8 * k.val + 7]'(by omega))

/-- `Pack(s)`: the message whose message bit `i` is `s[i]` (R63). -/
def pack (s : Vector Bool 56) : Message :=
  #v[packOctet s 0, packOctet s 1, packOctet s 2, packOctet s 3, packOctet s 4, packOctet s 5, packOctet s 6]

/-- The message bits in transmission order (R60). -/
def messageBits (m : Message) : Vector Bool 56 := Vector.ofFn (mbit m)

/-- The 56-bit port form of a message: bit 55 is message bit 0 (R166). -/
def messageWord (m : Message) : BitVec 56 := m[0] ++ m[1] ++ m[2] ++ m[3] ++ m[4] ++ m[5] ++ m[6]

/-- The message of a 56-bit port value (R166). -/
def messageOfWord (w : BitVec 56) : Message :=
  #v[w.extractLsb' 48 8, w.extractLsb' 40 8, w.extractLsb' 32 8, w.extractLsb' 24 8, w.extractLsb' 16 8,
    w.extractLsb' 8 8, w.extractLsb' 0 8]

end Sys2Proof.Machine
end

