-- ==== Sys2Proof/Machine/Flags.lean ====
section
/-! DEFINITION. The flags an operation computes: the scan's degeneracy flags (43_validator.md R132, R134), the
torn-read and change tests (R133, R135), and the RX edge test (42_rx_capture.md R122). -/

namespace Sys2Proof.Machine

/-- `scan.seen0` after the newer-half bit `b` (R132). -/
def nextSeen0 (sc : Scan) (b : Bool) : Bool := !b || sc.seen0

/-- `scan.ok01` after the newer-half bit `b`: a 1 after an earlier 0 (R132). -/
def nextOk01 (sc : Scan) (b : Bool) : Bool := b && sc.seen0 || sc.ok01

/-- The 56-bit sequence has a 0-bit followed later by a 1-bit (R134). -/
def nonDegenerate (s : Vector Bool 56) : Bool :=
  decide (∃ i j : Fin 56, i < j ∧ s[i] = false ∧ s[j] = true)

/-- PEND's two tests: the sequence is not degenerate and no EDGE fell inside the scan (R133). -/
def scanIsClean (s : State) : Bool := s.scan.ok01 && !s.rx.dirty

/-- The committed message differs from `val.last_change` in some bit (R135). -/
def isChange (m : Message) (s : State) : Bool := m != s.val.lastChange

/-- CLOCK going from `old` to `new` is the transition that triggers a capture (R122). -/
def isRxEdge (e : RxEdge) (old new : Level) : Bool :=
  match e with
  | .rising => old == .low && new == .high
  | .falling => old == .high && new == .low

/-- The level CLOCK has after an `RX_EDGE` transition (R122). -/
def levelAfterEdge : RxEdge → Level
  | .rising => .high
  | .falling => .low

end Sys2Proof.Machine
end

