-- ==== Sys2Proof/Machine/Ops.lean ====
section
/-! DEFINITION. The shared operations: the platform calls (60_exceptions.md R165), the timer (R161 to R163), the
capture body (R120), one evaluation of the TX routine (R84), the commit (R135), entering an operation and
returning an outcome (R150, R151, R159, R160). -/

namespace Sys2Proof.Machine

/-- What every meaning answers. -/
abbrev Answer := Host.Outcome State Fault Refusal

/-- Runs `f` on the next state, if there is one. -/
def andThen (a : Answer) (f : State → Answer) : Answer :=
  match a with
  | .next s => f s
  | .fault r => .fault r
  | .refused r => .refused r

/-- Adds one call to the boundary record of the operation under way (R165). -/
def record (c : Call) (s : State) : State := { s with port.calls := s.port.calls ++ [c] }

/-- Entry of an operation or of an interrupt: it begins; nothing is saved and no mode changes (R159). The
boundary record is the new operation's. -/
def beginOp (s : State) : State := { s with port := { calls := [], result := none } }

/-- Return from an operation with an outcome (R68): nothing to restore (R160). -/
def returning (r : Result) (s : State) : State := { s with port.result := some r }

/-- The non-fatal outcome `Busy`: it changes no state (R150). -/
def returnBusy (s : State) : Answer := .next (returning .busy s)

/-- The non-fatal outcome `None`: it ends the scan and leaves `val.*` (R151). -/
def returnNone (s : State) : Answer := .next (returning .noMessage { s with scan.active := false })

/-- `arm(t)` (R161): refused while armed, for 0 ticks, and above `TIMER_MAX` (93 V5). -/
def arm (t : Nat) (s : State) : Answer :=
  if s.timer.armed then .refused .armWhileArmed
  else if t = 0 ∨ s.config.timerMax < t then .refused .armTicksOutOfRange
  else .next (record (.armTimer t) { s with timer := { armed := true, remaining := t } })

/-- `disarm()` (R162). -/
def disarm (s : State) : State := record .disarmTimer { s with timer.armed := false }

/-- One tick passes: while armed it lowers the count, down to 0 (R17, R163). -/
def tick (s : State) : State :=
  if s.timer.armed then { s with timer.remaining := s.timer.remaining - 1 } else s

/-- Enough time passes for the armed count to run out (R81: "enough time passes, then the expiry is served"). -/
def letTimeRunOut (s : State) : State := { s with timer.remaining := 0 }

/-- The one-shot expiry is taken: `timer.armed <- 0` (R81). -/
def takeExpiry (s : State) : State := { s with timer.armed := false }

/-- `emit Hook` (R18, R88). -/
def emitHook (s : State) : State := record .hook { s with hookCount := s.hookCount + 1 }

/-- The capture, EDGE(d) (R120): exactly the four steps of R121. -/
def capture (d : Level) (s : State) : State :=
  let s1 := ringWrite s.rx.cursor.val (bitOf d) (record (.readData d) s)
  { s1 with
    rx.cursor := ringIndex (s.rx.cursor.val + 1)
    rx.dirty := true }

/-- `line.ENABLE <- v` (R165). -/
def setEnable (v : Level) (s : State) : State := record (.setLine .enable v) { s with lines.enable := v }

/-- `line.DATA <- v` (R165). -/
def setData (v : Level) (s : State) : State := record (.setLine .data v) { s with lines.data := v }

/-- The environment makes the `RX_EDGE` transition of `in.CLOCK` with `in.DATA` at `d` (R22, R120; log 15). -/
def driveEdge (d : Level) (s : State) : State :=
  { s with inp := { clock := levelAfterEdge s.config.rxEdge, data := d } }

/-- `in.CLOCK` as RX sees it: joined to `line.CLOCK` under `LOOPBACK` (R125). -/
def inClock (s : State) : Level := if s.config.loopback then s.lines.clock else s.inp.clock

/-- `in.DATA` as RX sees it: joined to `line.DATA` under `LOOPBACK` (R125). -/
def inData (s : State) : Level := if s.config.loopback then s.lines.data else s.inp.data

/-- `line.CLOCK <- v` (R165). With `LOOPBACK` the line is also `in.CLOCK`, and an `RX_EDGE` transition
captures the level `in.DATA` has at that moment (R123, R125; log 13). -/
def setClock (v : Level) (s : State) : State :=
  let s1 := record (.setLine .clock v) { s with lines.clock := v }
  if isRxEdge s.config.rxEdge (inClock s) (inClock s1) then capture (inData s1) s1 else s1

/-- What the evaluation of a TX state yields: the state after its writes, `next` and the delay `t` (R84). -/
structure Evaluation where
  after : State
  next : TxState
  delay : Nat
deriving DecidableEq, Repr

/-- One turn of the TX routine's loop for state `x`, already evaluated to `e` (R84): the next state is stored;
a delay arms the timer and suspends; no delay goes on at once, unless the state is its own successor. -/
def routineTurn (x : TxState) (e : Evaluation) : Answer :=
  let s := { e.after with tx.state := e.next }
  if 0 < e.delay then arm e.delay { s with routineActive := false }
  else .next { s with routineActive := e.next != x }

/-- `Commit(m)` (R135). -/
def commit (m : Message) (s : State) : State :=
  { s with
    val.lastValid := m
    val.isValid := true
    val.changeCounter := if isChange m s then s.config.changePrime else s.val.changeCounter
    val.lastChange := if isChange m s then m else s.val.lastChange }

end Sys2Proof.Machine
end

