-- ==== Sys2Proof/Machine/Reset.lean ====
section
/-! DEFINITION. RESET (70_reset_and_hazards.md R180). -/

namespace Sys2Proof.Machine

/-- RESET: every piece of state at its value of R30. The build's constants, the input lines and the operations
still to come are not the core's to reset (R22, R28, R31; log 18). -/
def execReset (s : State) : Answer := .next (State.resetOf s.config s.lines s.inp s.trace)

end Sys2Proof.Machine
end

