-- ==== Sys2Proof/Machine/RxCapture.lean ====
section
/-! DEFINITION. The RX capture (42_rx_capture.md R120): one operation in two spellings. It looks at neither
ENABLE nor `tx.state` nor a poll under way, and it is always enabled. -/

namespace Sys2Proof.Machine

/-- EDGE_L: DATA reads low, logical 1 (R120). -/
def execEdgeL (s : State) : Answer := .next (capture .low (driveEdge .low (beginOp s)))

/-- EDGE_H: DATA reads high, logical 0 (R120). -/
def execEdgeH (s : State) : Answer := .next (capture .high (driveEdge .high (beginOp s)))

end Sys2Proof.Machine
end

