-- ==== Sys2Proof/Machine/TxStates.lean ====
section
/-! DEFINITION. The twelve TX states (41_tx_states.md R100 to R111) and the TX routine (40_tx_commands.md R84).
The meaning of the micro-instruction of state S is one turn of the routine at S. -/

namespace Sys2Proof.Machine

/-- The rest levels `L, H, H`, in the order of writing of R100 and R101. -/
def setRestLevels (s : State) : State := setData .high (setClock .high (setEnable .low s))

/-- Evaluate(REST) (R100). -/
def evalRest (s : State) : Evaluation where
  after := disarm { setRestLevels s with tx.bitCursor := 0, tx.repeatFlag := false }
  next := .rest
  delay := 0

/-- Evaluate(START) (R101). -/
def evalStart (s : State) : Evaluation where
  after := setRestLevels s
  next := .enHiA
  delay := s.config.t100

/-- Evaluate(EN_HI_A) (R102). -/
def evalEnHiA (s : State) : Evaluation where
  after := setEnable .high s
  next := .enLoA
  delay := s.config.t100

/-- Evaluate(EN_LO_A) (R103). -/
def evalEnLoA (s : State) : Evaluation where
  after := setEnable .low s
  next := .enHiB
  delay := s.config.t100

/-- Evaluate(EN_HI_B) (R104). -/
def evalEnHiB (s : State) : Evaluation where
  after := setEnable .high s
  next := .bit
  delay := s.config.t60

/-- Evaluate(BIT) (R105): DATA first, then the falling edge of CLOCK. -/
def evalBit (s : State) : Evaluation where
  after := setClock .low (setData (lvl (bufBit s s.tx.bitCursor)) s)
  next := .clk
  delay := s.config.t40

/-- Evaluate(CLK) (R106): the cursor wraps at 56 and never holds 56 (90_conflicts.md C1). -/
def evalClk (s : State) : Evaluation :=
  let s1 := setClock .high s
  if h : s.tx.bitCursor.val < 55 then
    { after := { s1 with tx.bitCursor := ⟨s.tx.bitCursor.val + 1, by omega⟩ }, next := .bit, delay := s.config.t65 }
  else if s.tx.repeatFlag then
    { after := { s1 with tx.bitCursor := 0 }, next := .endSeq, delay := s.config.tEndHold }
  else
    { after := { s1 with tx.bitCursor := 0, tx.repeatFlag := true }, next := .rgap, delay := 0 }

/-- Evaluate(RGAP) (R107): no line is written. -/
def evalRgap (s : State) : Evaluation where
  after := s
  next := .renLo
  delay := s.config.t40

/-- Evaluate(REN_LO) (R108). -/
def evalRenLo (s : State) : Evaluation where
  after := setEnable .low s
  next := .renHi
  delay := s.config.t100

/-- Evaluate(REN_HI) (R109). -/
def evalRenHi (s : State) : Evaluation where
  after := setEnable .high s
  next := .bit
  delay := s.config.t60

/-- Evaluate(END) (R110): ENABLE, then DATA, then the hook. -/
def evalEnd (s : State) : Evaluation where
  after := emitHook (setData .high (setEnable .low s))
  next := .rest
  delay := 0

/-- Evaluate(DISABLED) (R111): nothing is written. -/
def evalDisabled (s : State) : Evaluation where
  after := s
  next := .disabled
  delay := 0

/-- `Evaluate(S)` (R9, R84). -/
def evaluate (x : TxState) (s : State) : Evaluation :=
  match x with
  | .rest => evalRest s
  | .start => evalStart s
  | .enHiA => evalEnHiA s
  | .enLoA => evalEnLoA s
  | .enHiB => evalEnHiB s
  | .bit => evalBit s
  | .clk => evalClk s
  | .rgap => evalRgap s
  | .renLo => evalRenLo s
  | .renHi => evalRenHi s
  | .endSeq => evalEnd s
  | .disabled => evalDisabled s

/-- The TX routine with at most `fuel` evaluations (R84). -/
def txRoutineFuel : Nat → State → Answer
  | 0, _ => .refused .routineOverrun
  | fuel + 1, s =>
    andThen (routineTurn s.tx.state (evaluate s.tx.state s)) fun t =>
      if t.routineActive then txRoutineFuel fuel t else .next t

/-- `TxRoutine()`: at most three states are evaluated in one invocation (R84). -/
def txRoutine (s : State) : Answer := txRoutineFuel 3 s

/-- TX.REST. -/
def execTxRest (s : State) : Answer := routineTurn .rest (evalRest s)

/-- TX.START. -/
def execTxStart (s : State) : Answer := routineTurn .start (evalStart s)

/-- TX.EN_HI_A. -/
def execTxEnHiA (s : State) : Answer := routineTurn .enHiA (evalEnHiA s)

/-- TX.EN_LO_A. -/
def execTxEnLoA (s : State) : Answer := routineTurn .enLoA (evalEnLoA s)

/-- TX.EN_HI_B. -/
def execTxEnHiB (s : State) : Answer := routineTurn .enHiB (evalEnHiB s)

/-- TX.BIT. -/
def execTxBit (s : State) : Answer := routineTurn .bit (evalBit s)

/-- TX.CLK. -/
def execTxClk (s : State) : Answer := routineTurn .clk (evalClk s)

/-- TX.RGAP. -/
def execTxRgap (s : State) : Answer := routineTurn .rgap (evalRgap s)

/-- TX.REN_LO. -/
def execTxRenLo (s : State) : Answer := routineTurn .renLo (evalRenLo s)

/-- TX.REN_HI. -/
def execTxRenHi (s : State) : Answer := routineTurn .renHi (evalRenHi s)

/-- TX.END. -/
def execTxEnd (s : State) : Answer := routineTurn .endSeq (evalEnd s)

/-- TX.DISABLED. -/
def execTxDisabled (s : State) : Answer := routineTurn .disabled (evalDisabled s)

end Sys2Proof.Machine
end

