-- ==== Sys2Proof/Machine/TxCommands.lean ====
section
/-! DEFINITION. The operations on TX: SEND, EXPIRE, BUSOFF, BUSON (40_tx_commands.md R80 to R83). Each is one
atomic step, the routine included (R85). -/

namespace Sys2Proof.Machine

/-- SEND (R80). -/
def execSend (m : Message) (s : State) : Answer :=
  let s0 := beginOp s
  if s.tx.state = .rest then
    andThen (txRoutine { s0 with tx.buffer := m, tx.state := .start }) fun t => .next (returning .accepted t)
  else returnBusy s0

/-- EXPIRE (R81): the armed ticks run out, then the expiry is served. -/
def execExpire (s : State) : Answer :=
  if s.timer.armed then txRoutine (takeExpiry (letTimeRunOut (beginOp s))) else .refused .expireNotArmed

/-- BUSOFF (R82). -/
def execBusoff (s : State) : Answer :=
  let s0 := beginOp s
  match s.tx.state with
  | .rest => .next (returning .accepted { s0 with tx.state := .disabled })
  | .disabled => .next (returning .accepted s0)
  | _ => returnBusy s0

/-- BUSON (R83). -/
def execBuson (s : State) : Answer :=
  let s0 := beginOp s
  if s.tx.state = .disabled then
    andThen (txRoutine { s0 with tx.state := .rest }) fun t => .next (returning .accepted t)
  else .next (returning .accepted s0)

end Sys2Proof.Machine
end

