-- ==== Sys2Proof/Machine/Validator.lean ====
section
/-! DEFINITION. The redundancy validator (43_validator.md R130 to R135): PBEGIN, PCMP, PEND, and POLL, which is
the three run with nothing in between (30_encoding.md R72). -/

namespace Sys2Proof.Machine

/-- The body of PBEGIN (R131). -/
def scanBegin (s : State) : Answer :=
  if s.scan.active then .refused .scanAlreadyActive
  else
    .next
      { s with
        rx.dirty := false
        scan.base := s.rx.cursor
        scan.i := 0
        scan.seen0 := false
        scan.ok01 := false
        scan.active := true }

/-- The body of PCMP (R132). -/
def scanCompare (s : State) : Answer :=
  if h : s.scan.active = true ∧ s.scan.i.val < 56 then
    let b := newerBit s s.scan.i.val
    if olderBit s s.scan.i.val ≠ b then returnNone s
    else
      .next
        { s with
          scan.snap := s.scan.snap.set s.scan.i.val b h.2
          scan.seen0 := nextSeen0 s.scan b
          scan.ok01 := nextOk01 s.scan b
          scan.i := ⟨s.scan.i.val + 1, by omega⟩ }
  else .refused .pcmpNotAdmitted

/-- The body of PEND (R133). -/
def scanEnd (s : State) : Answer :=
  if s.scan.active = true ∧ s.scan.i.val = 56 then
    if scanIsClean s then
      .next (returning (.message (pack s.scan.snap)) (commit (pack s.scan.snap) { s with scan.active := false }))
    else returnNone s
  else .refused .pendNotAdmitted

/-- The rest of a poll with `left` pairs still to compare: PCMP until one returns `None`, then PEND if none
did (R72). -/
def scanRest : Nat → State → Answer
  | 0, s => scanEnd s
  | left + 1, s => andThen (scanCompare s) fun t => if t.scan.active then scanRest left t else .next t

/-- PBEGIN (R131). -/
def execPbegin (s : State) : Answer := scanBegin (beginOp s)

/-- PCMP (R132). -/
def execPcmp (s : State) : Answer := scanCompare (beginOp s)

/-- PEND (R133). -/
def execPend (s : State) : Answer := scanEnd (beginOp s)

/-- POLL (R130, R72). -/
def execPoll (s : State) : Answer := andThen (scanBegin (beginOp s)) (scanRest 56)

end Sys2Proof.Machine
end

