-- ==== Sys2Proof/Machine/Dispatch.lean ====
section
/-! DEFINITION. One arm per instruction. -/

namespace Sys2Proof.Machine

def exec (i : Instr) (s : State) : Host.Outcome State Fault Refusal :=
  match i with
  | .reset => Sys2Proof.Machine.execReset s
  | .send m => Sys2Proof.Machine.execSend m s
  | .expire => Sys2Proof.Machine.execExpire s
  | .edgeL => Sys2Proof.Machine.execEdgeL s
  | .edgeH => Sys2Proof.Machine.execEdgeH s
  | .poll => Sys2Proof.Machine.execPoll s
  | .pbegin => Sys2Proof.Machine.execPbegin s
  | .pcmp => Sys2Proof.Machine.execPcmp s
  | .pend => Sys2Proof.Machine.execPend s
  | .busoff => Sys2Proof.Machine.execBusoff s
  | .buson => Sys2Proof.Machine.execBuson s
  | .txRest => Sys2Proof.Machine.execTxRest s
  | .txStart => Sys2Proof.Machine.execTxStart s
  | .txEnHiA => Sys2Proof.Machine.execTxEnHiA s
  | .txEnLoA => Sys2Proof.Machine.execTxEnLoA s
  | .txEnHiB => Sys2Proof.Machine.execTxEnHiB s
  | .txBit => Sys2Proof.Machine.execTxBit s
  | .txClk => Sys2Proof.Machine.execTxClk s
  | .txRgap => Sys2Proof.Machine.execTxRgap s
  | .txRenLo => Sys2Proof.Machine.execTxRenLo s
  | .txRenHi => Sys2Proof.Machine.execTxRenHi s
  | .txEnd => Sys2Proof.Machine.execTxEnd s
  | .txDisabled => Sys2Proof.Machine.execTxDisabled s

end Sys2Proof.Machine
end

