-- ==== Sys2Proof/Machine/Schedule.lean ====
section
/-! DEFINITION. Agents, contexts (00_scope.md R8; 60_exceptions.md R155) and the one rule of the schedule that a
sequence of operations can break (R130, R156). -/

namespace Sys2Proof.Machine

/-- R8. -/
inductive Agent where
  | task
  | timer
  | busclk
  | env
deriving DecidableEq, Repr

/-- R155. -/
inductive Context where
  | task
  | interrupt
deriving DecidableEq, Repr

/-- The agent that performs an operation (R8, R70); none for a TX state, which the TX routine evaluates inside
an operation of TASK or TIMER. -/
def agentOf : Instr → Option Agent
  | .reset => some .env
  | .send _ | .poll | .pbegin | .pcmp | .pend | .busoff | .buson => some .task
  | .expire => some .timer
  | .edgeL | .edgeH => some .busclk
  | .txRest | .txStart | .txEnHiA | .txEnLoA | .txEnHiB | .txBit | .txClk | .txRgap | .txRenLo | .txRenHi
  | .txEnd | .txDisabled => none

/-- The context an operation runs in (R155); RESET runs in neither, and a TX state in that of its operation. -/
def contextOf (i : Instr) : Option Context :=
  match agentOf i with
  | some .task => some .task
  | some .timer | some .busclk => some .interrupt
  | some .env | none => none

/-- The operations a poll is made of (R130). -/
def isPollStep : Instr → Bool
  | .poll | .pbegin | .pcmp | .pend => true
  | .reset | .send _ | .expire | .edgeL | .edgeH | .busoff | .buson => false
  | .txRest | .txStart | .txEnHiA | .txEnLoA | .txEnHiB | .txBit | .txClk | .txRgap | .txRenLo | .txRenHi
  | .txEnd | .txDisabled => false

/-- The steps of one poll are consecutive among TASK operations (R156): inside a scan the task context issues
nothing else (R155; log 11). -/
def scheduleAdmits (i : Instr) (s : State) : Bool :=
  !(s.scan.active && contextOf i == some .task && !isPollStep i)

/-- What a core with no operation given does: a tick passes (R17; log 6). -/
def idle (s : State) : State := tick (beginOp s)

end Sys2Proof.Machine
end

