-- ==== Sys2Proof/Machine/Step.lean ====
section
/-! DEFINITION. One step of the core. Inside an operation the TX sequencer fetches the code of `tx.state` and
runs its micro-instruction (log 9); between operations the next operation of the trace is fetched and run; with
no operation given, a tick passes. -/

namespace Sys2Proof.Machine

def step (s : State) : Host.Outcome State Fault Refusal :=
  if s.routineActive then
    match decodeTxState s.tx.state.code with
    | .ok i => exec i s
    | .error e => .refused (.undecodable e)
  else
    match s.trace with
    | [] => .next (idle s)
    | o :: rest =>
      match decodeTrace (o :: rest) with
      | .error e => .refused (.undecodable e)
      | .ok (i, rest') =>
        if scheduleAdmits i s then exec i { s with trace := rest' } else .refused .taskOperationInsideScan

/-- The state whose very next step fetches and runs the instruction of `nbits` bits `w` (numbered as
spec/opcode_table.json numbers them). An operation is put at the head of the trace; a TX state is put in
`tx.state`, with the routine under way, which is where the sequencer fetches it (log 5, 9, 10). -/
def State.withFetchWord (s : State) (nbits w : Nat) : State :=
  if nbits ≤ 4 then
    match TxState.ofCode (BitVec.ofNat 4 w) with
    | some x => { s with tx.state := x, routineActive := true }
    | none => s
  else { s with routineActive := false, trace := tableOctets nbits w }

end Sys2Proof.Machine
end

