-- ==== Sys2Proof/Machine/Ports.lean ====
section
/-! DEFINITION. Views of the core: its ports (60_exceptions.md R166) and the packed session word (30_encoding.md
R65). Presentations of the operations and the state; they hold nothing of their own. -/

namespace Sys2Proof.Machine

/-- `SW`: bits 3..0 `tx.state`, 9..4 `tx.bit_cursor`, 10 `tx.repeat` (R65). -/
def sessionWord (t : TxSession) : BitVec 11 :=
  BitVec.ofBool t.repeatFlag ++ BitVec.ofNat 6 t.bitCursor.val ++ t.state.code

/-- The fields of a session word; none where one holds a reserved value (R65, R69). -/
def sessionOfWord (w : BitVec 11) : Option (TxState × Fin 56 × Bool) :=
  match TxState.ofCode (w.extractLsb' 0 4) with
  | none => none
  | some x => if h : (w.extractLsb' 4 6).toNat < 56 then some (x, ⟨_, h⟩, w.getLsbD 10) else none

/-- The code of an outcome (R68). -/
def Result.code : Result → Bool
  | .accepted => false
  | .busy => true
  | .noMessage => false
  | .message _ => true

/-- A line level on a port: 1 is `H` (R166). -/
def levelBit : Level → Bool
  | .low => false
  | .high => true

/-- The level a port bit stands for (R166). -/
def bitLevel : Bool → Level
  | false => .low
  | true => .high

/-- The input ports (R166). -/
structure PortInputs where
  rst : Bool
  sendReq : Bool
  sendMsg : BitVec 56
  busoffReq : Bool
  busonReq : Bool
  timerFire : Bool
  clockIn : Bool
  dataIn : Bool
  pollBegin : Bool
  pollStep : Bool
  pollEnd : Bool
deriving DecidableEq, Repr

/-- The output ports (R166). `sendBusy`, `pollSome` and `pollMsg` are the outcome of the latest operation, 0
where it returned none of that kind. -/
structure PortOutputs where
  sendBusy : Bool
  timerArm : Bool
  timerTicks : Nat
  timerDisarm : Bool
  enable : Bool
  clock : Bool
  data : Bool
  hook : Bool
  pollSome : Bool
  pollMsg : BitVec 56
  lastValid : BitVec 56
  isValid : Bool
  changeCounter : BitVec 8
deriving DecidableEq, Repr

/-- The operation `i`, if its request is up. -/
def ifRequested (b : Bool) (i : Instr) : List Instr := if b then [i] else []

/-- The `RX_EDGE` transition of `CLOCK_IN` is the EDGE operation (R166); with `LOOPBACK` the port is joined to
`line.CLOCK` and requests nothing of its own (R125). -/
def clockRequest (p : PortInputs) (s : State) : List Instr :=
  ifRequested (!s.config.loopback && isRxEdge s.config.rxEdge (inClock s) (bitLevel p.clockIn))
    (if p.dataIn then .edgeH else .edgeL)

/-- The operations a set of input ports requests (R166). -/
def portRequests (p : PortInputs) (s : State) : List Instr :=
  ifRequested p.rst .reset ++ ifRequested p.sendReq (.send (messageOfWord p.sendMsg)) ++
    ifRequested p.busoffReq .busoff ++ ifRequested p.busonReq .buson ++ ifRequested p.timerFire .expire ++
    clockRequest p s ++ ifRequested p.pollBegin .pbegin ++ ifRequested p.pollStep .pcmp ++
    ifRequested p.pollEnd .pend

/-- The environment sets the input lines (R22). -/
def driveInputs (p : PortInputs) (s : State) : State :=
  { s with inp := { clock := bitLevel p.clockIn, data := bitLevel p.dataIn } }

/-- One moment at the ports: at most one operation is requested (R166). DESIGN CHOICE: the schedule of a poll (R130,
R156) is not asked here, so a SEND, BUSOFF or BUSON requested inside a scan is performed, where `step` refuses it
(log 25, log 11). -/
def portStep (p : PortInputs) (s : State) : Answer :=
  match portRequests p s with
  | [] => .next (driveInputs p (beginOp s))
  | [i] => exec i (driveInputs p s)
  | _ :: _ :: _ => .refused .simultaneousRequests

/-- The ticks the latest operation armed, if it armed the timer. -/
def armedBy : List Call → Option Nat
  | [] => none
  | .armTimer t :: _ => some t
  | _ :: cs => armedBy cs

/-- The message of an outcome, if it has one. -/
def Result.message? : Result → Option Message
  | .message m => some m
  | .accepted | .busy | .noMessage => none

/-- The output ports after an operation (R166). -/
def portOutputs (s : State) : PortOutputs where
  sendBusy := decide (s.port.result = some .busy)
  timerArm := (armedBy s.port.calls).isSome
  timerTicks := (armedBy s.port.calls).getD 0
  timerDisarm := s.port.calls.contains .disarmTimer
  enable := levelBit s.lines.enable
  clock := levelBit s.lines.clock
  data := levelBit s.lines.data
  hook := s.port.calls.contains .hook
  pollSome := (s.port.result.bind Result.message?).isSome
  pollMsg := ((s.port.result.bind Result.message?).map messageWord).getD 0
  lastValid := messageWord s.val.lastValid
  isValid := s.val.isValid
  changeCounter := s.val.changeCounter

end Sys2Proof.Machine
end

