-- ==== Sys2Proof/Machine/Timing.lean ====
section
/-! DEFINITION. The tick arithmetic of a build (00_scope.md R5, R6): done at build time, never by the core (R74). -/

namespace Sys2Proof.Machine

/-- `PRESCALE`, `F_CPU / F_TIMER` (R5). -/
def prescale : Nat := 8

/-- `T(d) = floor(d * F_CPU / 8 000 000 + 1/2)`: `d` in microseconds, `fCpu` in hertz (R6). -/
def ticksOf (d fCpu : Nat) : Nat := (2 * (d * fCpu) + prescale * 1000000) / (2 * (prescale * 1000000))

/-- The tick table of R6 for a clock, in the order `T40`, `T60`, `T65`, `T100`. -/
def tickTable (fCpu : Nat) : List Nat := [40, 60, 65, 100].map fun d => ticksOf d fCpu

/-- The tick table a configuration holds. -/
def configTicks (c : Config) : List Nat := [c.t40, c.t60, c.t65, c.t100]

/-- The sum of the ticks a record of calls arms. -/
def armedTicks : List Call → Nat
  | [] => 0
  | .armTimer t :: cs => t + armedTicks cs
  | _ :: cs => armedTicks cs

/-- The nominal length of a session in ticks (R62). -/
def sessionTicks (c : Config) : Nat := 4 * c.t100 + 2 * c.t60 + 113 * c.t40 + 110 * c.t65 + c.tEndHold

end Sys2Proof.Machine
end

