-- ==== Sys2Proof/Machine/Trace.lean ====
section
/-! DEFINITION. Sequences of operations: the pseudo-operations of the trace notation (30_encoding.md R72) that
have no opcode of their own, as their expansions, and the run of a list of operations. -/

namespace Sys2Proof.Machine

/-- The EDGE a remote transmitter's bit `b` causes: `edge L` for 1 (R72). -/
def edgeOf : Bool → Instr
  | true => .edgeL
  | false => .edgeH

/-- `rxbits s` (R72). -/
def rxbits (s : List Bool) : List Instr := s.map edgeOf

/-- `rx M`: one pass of the message (R72). -/
def rx (m : Message) : List Instr := rxbits (messageBits m).toList

/-- `expire * n` (R72). -/
def expires (n : Nat) : List Instr := List.replicate n .expire

/-- Performs operations one after another, with nothing in between. -/
def execAll : List Instr → State → Answer
  | [], s => .next s
  | i :: is, s => andThen (exec i s) (execAll is)

/-- As `execAll`, with the calls of all of them, in order (R62, R165). -/
def execAllCalls : List Instr → State → Option (List Call × State)
  | [], s => some ([], s)
  | i :: is, s =>
    match exec i s with
    | .next t => (execAllCalls is t).map fun r => (t.port.calls ++ r.1, r.2)
    | .fault _ => none
    | .refused _ => none

/-- `run`: EXPIRE until the timer is not armed, at most `fuel` times (R72). -/
def runTimer : Nat → State → Answer
  | 0, s => .next s
  | fuel + 1, s => if s.timer.armed then andThen (exec .expire s) (runTimer fuel) else .next s

end Sys2Proof.Machine
end

