-- ==== Sys2Proof/Safety.lean ====
section
/-! DEFINITION. The terms claims are stated in: the invariant of 10_state.md R34 and R17, what a safe answer is,
the window of the ring (20_memory.md R57), the frame on the wire (30_encoding.md R62) and a remote receiver. -/

namespace Sys2Proof.Machine

/-- The rest levels (R16). -/
def restLines : Lines where
  enable := .low
  clock := .high
  data := .high

/-- The TX states in which the timer is armed between operations (R17). -/
def isTimed : TxState → Bool
  | .enHiA | .enLoA | .enHiB | .bit | .clk | .renLo | .renHi | .endSeq => true
  | .rest | .start | .rgap | .disabled => false

/-- The value `tx.repeat` has while a TX state is the next to be evaluated, where the state fixes it (R13). -/
def passOf : TxState → Option Bool
  | .rest | .start | .enHiA | .enLoA | .enHiB | .disabled => some false
  | .rgap | .renLo | .renHi | .endSeq => some true
  | .bit | .clk => none

/-- The TX states whose evaluation reads `tx.bit_cursor` (R12); in all others it is 0 between operations. -/
def usesCursor : TxState → Bool
  | .bit | .clk => true
  | .rest | .start | .enHiA | .enLoA | .enHiB | .rgap | .renLo | .renHi | .endSeq | .disabled => false

/-- The level DATA has before BIT: that of the bit before, of bit 55 at the start of the second pass, of rest at
the start of the first (R62). -/
def dataBeforeBit (t : TxSession) : Level :=
  if t.bitCursor = 0 then (if t.repeatFlag then lvl (mbit t.buffer 55) else .high)
  else lvl (mbit t.buffer (t.bitCursor - 1))

/-- The lines between operations while `tx.state` is the next state to be evaluated (R62, R112). -/
def linesBefore (t : TxSession) : Lines :=
  match t.state with
  | .rest | .start | .enHiA | .enHiB | .disabled => restLines
  | .enLoA => { enable := .high, clock := .high, data := .high }
  | .bit => { enable := .high, clock := .high, data := dataBeforeBit t }
  | .clk => { enable := .high, clock := .low, data := lvl (mbit t.buffer t.bitCursor) }
  | .rgap | .renLo | .endSeq => { enable := .high, clock := .high, data := lvl (mbit t.buffer 55) }
  | .renHi => { enable := .low, clock := .high, data := lvl (mbit t.buffer 55) }

/-- The invariant of the core between operations (R34, R17, R84, R113, R134). -/
structure Inv (s : State) : Prop where
  /-- the build's constants are legal (R7, R28) -/
  legalBuild : s.config.wf = true
  /-- no operation is half done (R85) -/
  betweenOperations : s.routineActive = false
  /-- START and RGAP are evaluated only inside an operation (R84) -/
  noImmediateState : s.tx.state ≠ .start ∧ s.tx.state ≠ .rgap
  /-- END waits only with an end hold (R84) -/
  endOnlyWithHold : s.tx.state = .endSeq → 0 < s.config.tEndHold
  /-- the timer is armed exactly in the timed states (R17) -/
  timerMatchesState : s.timer.armed = isTimed s.tx.state
  /-- an armed count is not above `TIMER_MAX` (R17, R161) -/
  remainingInRange : s.timer.armed = true → s.timer.remaining ≤ s.config.timerMax
  /-- the cursor is 0 outside the passes (R34 item 3) -/
  cursorAtRest : usesCursor s.tx.state = false → s.tx.bitCursor = 0
  /-- the pass flag agrees with the state (R13, R34 item 3) -/
  passMatchesState : ∀ b, passOf s.tx.state = some b → s.tx.repeatFlag = b
  /-- the lines are those of the frame (R62, R34 item 3); DISABLED leaves them alone (R111) -/
  linesMatchState : s.tx.state ≠ .disabled → s.lines = linesBefore s.tx
  /-- ENABLE is high whenever CLOCK is low (R113) -/
  clockLowInFrame : s.lines.clock = .low → s.lines.enable = .high
  /-- the degeneracy flags describe the bits compared so far (R134) -/
  seen0Means : s.scan.active = true →
    (s.scan.seen0 = true ↔ ∃ j : Fin 56, j.val < s.scan.i.val ∧ s.scan.snap[j] = false)
  ok01Means : s.scan.active = true →
    (s.scan.ok01 = true ↔
      ∃ j k : Fin 56, j < k ∧ k.val < s.scan.i.val ∧ s.scan.snap[j] = false ∧ s.scan.snap[k] = true)
  /-- while no EDGE has fallen inside the scan, the snapshot is both halves of the ring (R34 item 7, R53) -/
  snapshotMeans : s.scan.active = true → s.rx.dirty = false →
    s.rx.cursor = s.scan.base ∧
      ∀ j : Fin 56, j.val < s.scan.i.val →
        olderBit s j.val = s.scan.snap[j] ∧ newerBit s j.val = s.scan.snap[j]
  /-- a committed message is not degenerate (R34 item 8) -/
  validIsNonDegenerate : s.val.isValid = true → nonDegenerate (messageBits s.val.lastValid) = true
  /-- R34 item 9 -/
  changeIsLast : s.val.lastChange = s.val.lastValid

/-- The refusals a core between operations can answer: the trace asks for what the spec does not admit. The other
reasons (a second `arm`, ticks out of range, an overrun routine) never occur (R17, R84, R161). -/
def isAdmissionRefusal : Refusal → Bool
  | .undecodable _ | .expireNotArmed | .scanAlreadyActive | .pcmpNotAdmitted | .pendNotAdmitted
  | .taskOperationInsideScan => true
  | _ => false

/-- Bit `i` of the window of the last 112 samples, oldest first (R57). -/
def windowBit (s : State) (i : Nat) : Bool := ringRead s (s.rx.cursor.val + i)

/-- The window of the last 112 samples, oldest first (R57). -/
def window (s : State) : List Bool := (List.range 112).map (windowBit s)

/-- The newer half of the window (R43). -/
def newerHalf (s : State) : Vector Bool 56 := Vector.ofFn fun i => windowBit s (i.val + 56)

/-- The halves of the ring agree (R132, R136). -/
def halvesAgree (s : State) : Prop := ∀ i : Fin 56, windowBit s i.val = windowBit s (i.val + 56)

/-- The message bits of `m` twice: what one session puts on the wire (R90). -/
def twice (m : Message) : List Bool := (messageBits m).toList ++ (messageBits m).toList

/-- Writing `v` on CLOCK makes an `RX_EDGE` transition of `in.CLOCK`: only with `LOOPBACK` (R125). -/
def loopsBack (v : Level) (s : State) : Bool := s.config.loopback && isRxEdge s.config.rxEdge s.lines.clock v

/-- RX after `v` is written on CLOCK while DATA is at `d` (R123, R125). -/
def rxAfterClock (v d : Level) (s : State) : RxRing := if loopsBack v s then (capture d s).rx else s.rx

/-- The calls made when `v` is written on CLOCK while DATA is at `d` (R165). -/
def clockCalls (v d : Level) (s : State) : List Call :=
  .setLine .clock v :: if loopsBack v s then [.readData d] else []

/-- The state the TX routine starts from inside EXPIRE (R81). -/
def afterExpiry (s : State) : State := takeExpiry (letTimeRunOut (beginOp s))

/-- Runs the TX sequencer step by step while its operation is under way, at most `fuel` steps. -/
def runSequencer : Nat → State → Answer
  | 0, s => .next s
  | fuel + 1, s => if s.routineActive then andThen (step s) (runSequencer fuel) else .next s

/-- How many EXPIREs a session takes (R89). -/
def sessionExpiries (c : Config) : Nat := if c.tEndHold = 0 then 229 else 230

/-- A session: an accepted SEND and its EXPIREs (R89). -/
def session (m : Message) (c : Config) : List Instr := .send m :: expires (sessionExpiries c)

/-- The calls the bus and the timer see; RX's own reads of DATA are left out. -/
def isTxCall : Call → Bool
  | .readData _ => false
  | .setLine _ _ | .armTimer _ | .disarmTimer | .hook => true

/-- The first half of a bit cell (R61, R105): DATA, the falling edge, 40 µs. -/
def bitCalls (m : Message) (k : Config) (c : Fin 56) : List Call :=
  [.setLine .data (lvl (mbit m c)), .setLine .clock .low, .armTimer k.t40]

/-- The second half of a bit cell (R61, R106): the rising edge, and 65 µs after every bit but a pass's last. -/
def clkCalls (k : Config) (c : Fin 56) : List Call :=
  if c.val < 55 then [.setLine .clock .high, .armTimer k.t65] else [.setLine .clock .high]

/-- One pass of the message (R62). -/
def passCalls (m : Message) (k : Config) : List Call :=
  (List.finRange 56).flatMap fun c => bitCalls m k c ++ clkCalls k c

/-- The gap and the framing before the first pass (R62, steps 0 to 3). -/
def openingCalls (k : Config) : List Call :=
  [.setLine .enable .low, .setLine .clock .high, .setLine .data .high, .armTimer k.t100,
    .setLine .enable .high, .armTimer k.t100, .setLine .enable .low, .armTimer k.t100,
    .setLine .enable .high, .armTimer k.t60]

/-- The gap and the reframing between the passes (R62, steps 116 to 118). -/
def reframeCalls (k : Config) : List Call :=
  [.armTimer k.t40, .setLine .enable .low, .armTimer k.t100, .setLine .enable .high, .armTimer k.t60]

/-- The hold after the last bit, if the build has one (R62, step 230). -/
def holdCalls (k : Config) : List Call := if 0 < k.tEndHold then [.armTimer k.tEndHold] else []

/-- The end sequence and the return to rest (R62, steps 231 and 232; R110, R100). -/
def closingCalls : List Call :=
  [.setLine .enable .low, .setLine .data .high, .hook,
    .setLine .enable .low, .setLine .clock .high, .setLine .data .high, .disarmTimer]

/-- The whole frame of an accepted SEND (R62), as the calls that make it. -/
def frameCalls (m : Message) (k : Config) : List Call :=
  openingCalls k ++ (passCalls m k ++ (reframeCalls k ++ (passCalls m k ++ (holdCalls k ++ closingCalls))))

/-- A remote receiver on the wire: the bits DATA shows at each rise of CLOCK (R61, R90), from the levels
`clock` and `data` the lines start at. -/
def receive (clock data : Level) : List Call → List Bool
  | [] => []
  | .setLine .data v :: cs => receive clock v cs
  | .setLine .clock v :: cs =>
    if isRxEdge .rising clock v then bitOf data :: receive v data cs else receive v data cs
  | .setLine .enable _ :: cs | .readData _ :: cs | .armTimer _ :: cs | .disarmTimer :: cs | .hook :: cs =>
    receive clock data cs

/-- The same input ports with every request lowered (R166). -/
def quiet (p : PortInputs) : PortInputs :=
  { p with
    rst := false, sendReq := false, busoffReq := false, busonReq := false, timerFire := false
    pollBegin := false, pollStep := false, pollEnd := false }

/-- The request ports (R166). -/
def requestBits (p : PortInputs) : List Bool :=
  [p.rst, p.sendReq, p.busoffReq, p.busonReq, p.timerFire, p.pollBegin, p.pollStep, p.pollEnd]

/-- `CLOCK_IN` makes the `RX_EDGE` transition of a free `in.CLOCK` (R122, R125, R166). -/
def clockInEdge (p : PortInputs) (s : State) : Bool :=
  !s.config.loopback &&
    match s.config.rxEdge with
    | .rising => s.inp.clock == .low && p.clockIn
    | .falling => s.inp.clock == .high && !p.clockIn

/-- An operation that may fall inside a scan: a PCMP, or one of TIMER or BUSCLK (R130, R156). -/
def mayFallInScan : Instr → Bool
  | .pcmp | .edgeL | .edgeH | .expire => true
  | .reset | .send _ | .poll | .pbegin | .pend | .busoff | .buson => false
  | .txRest | .txStart | .txEnHiA | .txEnLoA | .txEnHiB | .txBit | .txClk | .txRgap | .txRenLo | .txRenHi
  | .txEnd | .txDisabled => false

/-- An EDGE, in either spelling (R120). -/
def isEdge (i : Instr) : Bool := i == .edgeL || i == .edgeH

end Sys2Proof.Machine
end

