-- ==== Sys2Proof/Certificates/Slice0/Obligations.lean ====
section
/-! DEFINITION. The statements for the provers. -/

section

open Sys2Proof Sys2Proof.Machine

/-! ### Encodings -/

/-- The words R70, R71 and R64 give, written out, decode to the instructions they stand for. The opcodes and the
state codes are the spec's own choice (92_eei_decisions.md D2, D26). -/
def Obligations.WrittenWordsDecode : Prop :=
  decode (.octets [0x00]) = .ok .reset ∧
  decode (.octets [0x01, 0xA5, 0x00, 0x00, 0x00, 0x00, 0x00, 0x01]) =
    .ok (.send #v[0xA5, 0x00, 0x00, 0x00, 0x00, 0x00, 0x01]) ∧
  decode (.octets [0x02]) = .ok .expire ∧ decode (.octets [0x04]) = .ok .edgeL ∧
  decode (.octets [0x05]) = .ok .edgeH ∧ decode (.octets [0x06]) = .ok .poll ∧
  decode (.octets [0x09]) = .ok .pend ∧ decode (.octets [0x0A]) = .ok .busoff ∧
  decode (.txCode 0b0101#4) = .ok .txBit ∧ decode (.txCode 0b1010#4) = .ok .txEnd ∧
  decode (.txCode 0b1100#4) = .error (.reservedTxState 0b1100#4)

/-- Decode and encode agree, for every instruction with every operand: the encoding decodes to the instruction,
and in a trace an operation's octets decode to it whatever follows. Trace opcodes and state codes are the spec's
own choice (D2, D26). -/
def Obligations.DecodeEncodeAgree : Prop :=
  ∀ i : Instr, i.wf = true →
    decode (encode i) = .ok i ∧
    (i.txState = none → ∀ rest, decodeTrace (encodeTrace i ++ rest) = .ok (i, rest))

/-- A string of octets decodes to a list of operations exactly when it is the concatenation of their encodings.
The trace encoding is the spec's own choice (D26). -/
def Obligations.TraceIsItsOperations : Prop :=
  ∀ (bs : List Octet) (ops : List Instr),
    decodeAll bs = .ok ops ↔ (∀ i ∈ ops, i.txState = none) ∧ bs = ops.flatMap encodeTrace

/-- A reserved opcode and a SEND cut short are refused by name, by the decoder and by a step, and nothing is
skipped. -/
def Obligations.ReservedOpcodesAreRefused : Prop :=
  (∀ (o : Octet) (rest : List Octet), o = 0x03 ∨ 0x0C ≤ o.toNat →
    decodeTrace (o :: rest) = .error (.reservedOpcode o) ∧
    ∀ s : State, s.routineActive = false → s.trace = o :: rest →
      step s = .refused (.undecodable (.reservedOpcode o))) ∧
  (∀ rest : List Octet, rest.length < 7 →
    decodeTrace (0x01 :: rest) = .error (.truncatedSend rest.length) ∧
    ∀ s : State, s.routineActive = false → s.trace = 0x01 :: rest →
      step s = .refused (.undecodable (.truncatedSend rest.length)))

/-- `Pack` and the message bits are inverse to each other (R63, which the spec derives from R60). -/
def Obligations.PackInvertsMessageBits : Prop :=
  (∀ (v : Vector Bool 56) (i : Fin 56), mbit (pack v) i = v[i]) ∧ ∀ m : Message, pack (messageBits m) = m

/-- In the port form bit 55 is message bit 0, and the port form and the message are inverse to each other (R166,
the spec's own choice, D27). -/
def Obligations.PortWordHoldsMessageBits : Prop :=
  (∀ (m : Message) (c : Fin 56), (messageWord m).getLsbD (55 - c.val) = mbit m c) ∧
  (∀ m : Message, messageOfWord (messageWord m) = m) ∧
  ∀ w : BitVec 56, messageWord (messageOfWord w) = w

/-- The session word holds its three fields, a word with a reserved field names no session, and every other word
is the word of the fields it names (R65, R69; positions are the spec's own choice, D25). -/
def Obligations.SessionWordHoldsFields : Prop :=
  (∀ t : TxSession, sessionOfWord (sessionWord t) = some (t.state, t.bitCursor, t.repeatFlag)) ∧
  (∀ w : BitVec 11, sessionOfWord w = none ↔ 12 ≤ (w.extractLsb' 0 4).toNat ∨ 56 ≤ (w.extractLsb' 4 6).toNat) ∧
  ∀ (w : BitVec 11) (x : TxState) (c : Fin 56) (r : Bool) (m : Message),
    sessionOfWord w = some (x, c, r) → sessionWord ⟨x, c, r, m⟩ = w

/-! ### Reset, the step and the schedule -/

/-- RESET leaves every field at its value of R30, for either `RESET_TX_STATE`; with DISABLED the lines are left
untouched. The values are the spec's own choice (D24); the last four equations are the model's (log 8, 18). -/
def Obligations.ResetLeavesTheTable : Prop :=
  ∀ s : State, ∃ t, exec .reset s = .next t ∧
    (s.config.resetTxState = .rest → t.tx.state = .rest ∧ t.lines = restLines) ∧
    (s.config.resetTxState = .disabled → t.tx.state = .disabled ∧ t.lines = s.lines) ∧
    t.tx.bitCursor = 0 ∧ t.tx.repeatFlag = false ∧ t.tx.buffer = #v[0, 0, 0, 0, 0, 0, 0] ∧
    t.timer = ⟨false, 0⟩ ∧ t.hookCount = 0 ∧
    (∀ j, ringRead t j = false) ∧ t.rx.cursor = 0 ∧ t.rx.dirty = false ∧
    t.val = ⟨#v[0, 0, 0, 0, 0, 0, 0], false, #v[0, 0, 0, 0, 0, 0, 0], 0⟩ ∧
    t.scan.active = false ∧ t.scan.base = 0 ∧ t.scan.i = 0 ∧ t.scan.seen0 = false ∧ t.scan.ok01 = false ∧
    (∀ j : Fin 56, t.scan.snap[j] = false) ∧
    t.config = s.config ∧ t.inp = s.inp ∧ t.trace = s.trace ∧ t.routineActive = false

/-- The invariant holds right after reset. It rests on the reset values of R30, the spec's own choice (D24), and
on the build of log 1. -/
def Obligations.InvHoldsAtReset : Prop := Machine.Inv State.reset

/-- Between operations, a step is exec of the next operation of the trace with its octets taken off it: of every
operation outside a scan, and inside one of those the schedule of R156 admits. The trace is the model's (log 5). -/
def Obligations.StepRunsTheNextOperation : Prop :=
  ∀ (s : State) (i : Instr) (rest : List Octet),
    s.routineActive = false → decodeTrace s.trace = .ok (i, rest) →
      (s.scan.active = false → step s = exec i { s with trace := rest }) ∧
      (scheduleAdmits i s = true → step s = exec i { s with trace := rest })

/-- Inside an operation, a step is exec of the micro-instruction whose code stands in `tx.state`. That a step can
show one evaluation is the model's choice (log 9). -/
def Obligations.StepRunsTheSequencer : Prop :=
  ∀ s : State, s.routineActive = true → step s = exec s.tx.state.instr s

/-- With no operation given, one tick passes: an armed count falls by one, down to 0 (R17), and nothing else
changes but the boundary record. That an idle step is a tick is the model's choice (log 6). -/
def Obligations.IdleStepIsOneTick : Prop :=
  ∀ s : State, s.routineActive = false → s.trace = [] →
    step s = .next
      { s with
        timer := ⟨s.timer.armed, if s.timer.armed then s.timer.remaining - 1 else s.timer.remaining⟩
        port := ⟨[], none⟩ }

/-- Inside a scan the task issues nothing but the scan's steps: SEND, BUSOFF and BUSON are refused there by name,
and EXPIRE, EDGE and RESET are not held up (R130, R156). Refusing is the model's choice (log 11). -/
def Obligations.TaskWaitsForItsScan : Prop :=
  ∀ (s : State) (i : Instr) (rest : List Octet),
    s.routineActive = false → s.scan.active = true → decodeTrace s.trace = .ok (i, rest) →
      (((∃ m, i = .send m) ∨ i = .busoff ∨ i = .buson) → step s = .refused .taskOperationInsideScan) ∧
      ((i = .expire ∨ i = .edgeL ∨ i = .edgeH ∨ i = .pcmp ∨ i = .pend ∨ i = .reset) →
        step s = exec i { s with trace := rest })

/-! ### The transmit encoder -/

/-- An accepted SEND: at rest every message is taken, the first evaluation is made at once, and the session
waits `T100` ticks in EN_HI_A at the rest levels. Nothing else changes. -/
def Obligations.SendAtRestStartsASession : Prop :=
  ∀ (s : State) (m : Message), Machine.Inv s → s.tx.state = .rest →
    exec (.send m) s = .next
      { s with
        tx := ⟨.enHiA, 0, false, m⟩
        lines := restLines
        timer := ⟨true, s.config.t100⟩
        port :=
          ⟨[.setLine .enable .low, .setLine .clock .high, .setLine .data .high, .armTimer s.config.t100],
            some .accepted⟩ }

/-- `Busy`: SEND anywhere but at rest, and BUSOFF during a session, return it and change nothing (only the
model's boundary record, log 8, shows the outcome); EXPIRE and BUSON never return it, nor SEND at rest or BUSOFF
outside a session. -/
def Obligations.BusyChangesNothing : Prop :=
  (∀ (s : State) (m : Message), s.tx.state ≠ .rest →
    exec (.send m) s = .next { s with port := ⟨[], some .busy⟩ }) ∧
  (∀ s : State, s.tx.state ≠ .rest → s.tx.state ≠ .disabled →
    exec .busoff s = .next { s with port := ⟨[], some .busy⟩ }) ∧
  (∀ (s t : State) (i : Instr), exec i s = .next t → t.port.result = some .busy → i.txState = none →
    (∃ m, i = .send m ∧ s.tx.state ≠ .rest) ∨
      (i = .busoff ∧ s.tx.state ≠ .rest ∧ s.tx.state ≠ .disabled)) ∧
  Result.code .busy = true

/-- The evaluations of EN_HI_A, EN_LO_A and EN_HI_B: one line, the next state, the delay, and nothing else. That a
step of the source's prose asserts its action and then holds, and the names of the states, are the spec's own
choice (D1, D2). -/
def Obligations.FramingStatesMoveEnable : Prop :=
  ∀ s : State, s.config.wf = true → s.timer.armed = false →
    exec .txEnHiA s = .next
      { s with
        tx.state := .enLoA, lines.enable := .high, timer := ⟨true, s.config.t100⟩, routineActive := false
        port.calls := s.port.calls ++ [.setLine .enable .high, .armTimer s.config.t100] } ∧
    exec .txEnLoA s = .next
      { s with
        tx.state := .enHiB, lines.enable := .low, timer := ⟨true, s.config.t100⟩, routineActive := false
        port.calls := s.port.calls ++ [.setLine .enable .low, .armTimer s.config.t100] } ∧
    exec .txEnHiB s = .next
      { s with
        tx.state := .bit, lines.enable := .high, timer := ⟨true, s.config.t60⟩, routineActive := false
        port.calls := s.port.calls ++ [.setLine .enable .high, .armTimer s.config.t60] }

/-- The evaluations of REST and START: both write the rest levels; REST clears the cursor and the pass flag,
disarms the timer and stops the routine; START waits `T100`. The levels are the spec's own choice (D5), `disarm`
in REST too (D12). With `LOOPBACK` the CLOCK write may be an edge (log 13). -/
def Obligations.RestAndStartWriteRestLevels : Prop :=
  ∀ s : State,
    exec .txRest s = .next
      { s with
        tx := { s.tx with state := .rest, bitCursor := 0, repeatFlag := false }
        lines := restLines
        timer.armed := false
        rx := rxAfterClock .high s.lines.data s
        routineActive := false
        port.calls := s.port.calls ++ .setLine .enable .low ::
          (clockCalls .high s.lines.data s ++ [.setLine .data .high, .disarmTimer]) } ∧
    (s.config.wf = true → s.timer.armed = false →
      exec .txStart s = .next
        { s with
          tx.state := .enHiA
          lines := restLines
          timer := ⟨true, s.config.t100⟩
          rx := rxAfterClock .high s.lines.data s
          routineActive := false
          port.calls := s.port.calls ++ .setLine .enable .low ::
            (clockCalls .high s.lines.data s ++ [.setLine .data .high, .armTimer s.config.t100]) })

/-- The evaluation of BIT: DATA takes the inverted message bit under the cursor, then CLOCK falls, for `T40`
ticks; the cursor is read and not written. The order of the two writes is the spec's own choice (D9). With `LOOPBACK` the
CLOCK write may be an edge (R125, D18; log 13). -/
def Obligations.BitStateDrivesTheMessageBit : Prop :=
  ∀ s : State, s.config.wf = true → s.timer.armed = false →
    exec .txBit s = .next
      { s with
        tx.state := .clk
        lines := { s.lines with data := lvl (mbit s.tx.buffer s.tx.bitCursor), clock := .low }
        timer := ⟨true, s.config.t40⟩
        rx := rxAfterClock .low (lvl (mbit s.tx.buffer s.tx.bitCursor)) s
        routineActive := false
        port.calls := s.port.calls ++ .setLine .data (lvl (mbit s.tx.buffer s.tx.bitCursor)) ::
          (clockCalls .low (lvl (mbit s.tx.buffer s.tx.bitCursor)) s ++ [.armTimer s.config.t40]) }

/-- The evaluation of CLK, its three rows (R87): CLOCK rises; before bit 55 the cursor moves on and BIT follows
after `T65`; at bit 55 it wraps to 0 and the reframe follows at once in the first pass, the end sequence after
`T_ENDHOLD` in the second. The two delays at bit 55 are the spec's own choice (D6, D7). With `LOOPBACK` the CLOCK
write may be an edge (R125, D18; log 13). -/
def Obligations.ClkStateAdvancesTheCursor : Prop :=
  ∀ s : State, s.config.wf = true → s.timer.armed = false →
    ∃ t, exec .txClk s = .next t ∧
      t = { s with
            tx := t.tx, timer := t.timer, routineActive := t.routineActive
            lines.clock := .high
            rx := rxAfterClock .high s.lines.data s
            port.calls := s.port.calls ++ clockCalls .high s.lines.data s ++
              if t.timer.armed then [.armTimer t.timer.remaining] else [] } ∧
      t.tx.buffer = s.tx.buffer ∧
      (s.tx.bitCursor.val < 55 → t.tx.state = .bit ∧ t.tx.bitCursor.val = s.tx.bitCursor.val + 1 ∧
        t.tx.repeatFlag = s.tx.repeatFlag ∧ t.timer = ⟨true, s.config.t65⟩ ∧ t.routineActive = false) ∧
      (s.tx.bitCursor.val = 55 → s.tx.repeatFlag = false → t.tx.state = .rgap ∧ t.tx.bitCursor = 0 ∧
        t.tx.repeatFlag = true ∧ t.timer = s.timer ∧ t.routineActive = true) ∧
      (s.tx.bitCursor.val = 55 → s.tx.repeatFlag = true → t.tx.state = .endSeq ∧ t.tx.bitCursor = 0 ∧
        t.tx.repeatFlag = true ∧
        (0 < s.config.tEndHold → t.timer = ⟨true, s.config.tEndHold⟩ ∧ t.routineActive = false) ∧
        (s.config.tEndHold = 0 → t.timer = s.timer ∧ t.routineActive = true))

/-- The evaluations of RGAP, REN_LO and REN_HI: no line, ENABLE low, ENABLE high, with `T40`, `T100`, `T60`.
What the gap drives is the spec's own choice (D8). -/
def Obligations.ReframeStatesMoveEnable : Prop :=
  ∀ s : State, s.config.wf = true → s.timer.armed = false →
    exec .txRgap s = .next
      { s with
        tx.state := .renLo, timer := ⟨true, s.config.t40⟩, routineActive := false
        port.calls := s.port.calls ++ [.armTimer s.config.t40] } ∧
    exec .txRenLo s = .next
      { s with
        tx.state := .renHi, lines.enable := .low, timer := ⟨true, s.config.t100⟩, routineActive := false
        port.calls := s.port.calls ++ [.setLine .enable .low, .armTimer s.config.t100] } ∧
    exec .txRenHi s = .next
      { s with
        tx.state := .bit, lines.enable := .high, timer := ⟨true, s.config.t60⟩, routineActive := false
        port.calls := s.port.calls ++ [.setLine .enable .high, .armTimer s.config.t60] }

/-- The evaluations of END and DISABLED: END returns ENABLE and DATA to rest, emits the hook once and goes on to
REST at once; DISABLED writes nothing and stops the routine. Order and moment of the hook are the spec's own
choice (D9, D11), the disabled state's rule too (D10). -/
def Obligations.EndEmitsTheHookDisabledNothing : Prop :=
  ∀ s : State,
    exec .txEnd s = .next
      { s with
        tx.state := .rest
        lines := { s.lines with enable := .low, data := .high }
        hookCount := s.hookCount + 1
        routineActive := true
        port.calls := s.port.calls ++ [.setLine .enable .low, .setLine .data .high, .hook] } ∧
    exec .txDisabled s = .next { s with tx.state := .disabled, routineActive := false }

/-- EXPIRE with the timer armed clears it and evaluates the state in `tx.state`, one state for every state whose
delay is not 0: it answers what that micro-instruction answers from the disarmed state. -/
def Obligations.ExpireEvaluatesTheState : Prop :=
  ∀ s : State, s.config.wf = true → s.timer.armed = true →
    (s.tx.state = .enHiA ∨ s.tx.state = .enLoA ∨ s.tx.state = .enHiB ∨ s.tx.state = .bit ∨
      (s.tx.state = .clk ∧ s.tx.bitCursor.val < 55) ∨ s.tx.state = .renLo ∨ s.tx.state = .renHi) →
    ∃ t, exec .expire s = .next t ∧ exec s.tx.state.instr (afterExpiry s) = .next t ∧
      t.timer.armed = true ∧ t.port.result = none

/-- EXPIRE at bit 55 runs on through the immediate transitions: CLK and RGAP at the end of the first pass; CLK,
END and REST at the end of the second with no end hold; CLK alone with one, and then END and REST. The delays 0
are the spec's own choice (D4, D6, D7). With `LOOPBACK` the CLOCK write of CLK may be an edge, which samples DATA as
it stands right after that write, before END returns it to rest (R125, D18, R196); that the capture is made inside
the CLOCK write is the model's reading (log 13). -/
def Obligations.ExpireRunsImmediateStates : Prop :=
  ∀ s : State, s.config.wf = true → s.timer.armed = true →
    (s.tx.state = .clk → s.tx.bitCursor.val = 55 → s.tx.repeatFlag = false →
      exec .expire s = .next
        { s with
          tx := ⟨.renLo, 0, true, s.tx.buffer⟩
          lines.clock := .high
          timer := ⟨true, s.config.t40⟩
          rx := rxAfterClock .high s.lines.data s
          routineActive := false
          port := ⟨clockCalls .high s.lines.data s ++ [.armTimer s.config.t40], none⟩ }) ∧
    (s.tx.state = .clk → s.tx.bitCursor.val = 55 → s.tx.repeatFlag = true → s.config.tEndHold = 0 →
      exec .expire s = .next
        { s with
          tx := ⟨.rest, 0, false, s.tx.buffer⟩
          lines := restLines
          timer := ⟨false, 0⟩
          hookCount := s.hookCount + 1
          rx := rxAfterClock .high s.lines.data s
          routineActive := false
          port := ⟨clockCalls .high s.lines.data s ++ closingCalls, none⟩ }) ∧
    (s.tx.state = .clk → s.tx.bitCursor.val = 55 → s.tx.repeatFlag = true → 0 < s.config.tEndHold →
      exec .expire s = .next
        { s with
          tx := ⟨.endSeq, 0, true, s.tx.buffer⟩
          lines.clock := .high
          timer := ⟨true, s.config.tEndHold⟩
          rx := rxAfterClock .high s.lines.data s
          routineActive := false
          port := ⟨clockCalls .high s.lines.data s ++ [.armTimer s.config.tEndHold], none⟩ }) ∧
    (s.tx.state = .endSeq → s.lines.clock = .high →
      exec .expire s = .next
        { s with
          tx := ⟨.rest, 0, false, s.tx.buffer⟩
          lines := restLines
          timer := ⟨false, 0⟩
          hookCount := s.hookCount + 1
          routineActive := false
          port := ⟨closingCalls, none⟩ })

/-- EXPIRE is refused by name when no timer is armed, and completes from every state of the invariant in which
one is. -/
def Obligations.ExpireNeedsAnArmedTimer : Prop :=
  (∀ s : State, s.timer.armed = false → exec .expire s = .refused .expireNotArmed) ∧
  ∀ s : State, Machine.Inv s → s.timer.armed = true → ∃ t, exec .expire s = .next t

/-- BUSOFF and BUSON: REST to DISABLED with no line written; DISABLED to REST with the rest levels asserted;
everywhere else an accepted BUSOFF or BUSON changes nothing. The operations are the spec's own (D10); with
`LOOPBACK` the CLOCK write of BUSON may be an edge (log 13). -/
def Obligations.BusoffAndBusonSwitchTheBus : Prop :=
  ∀ s : State,
    (s.tx.state = .rest →
      exec .busoff s = .next { s with tx.state := .disabled, port := ⟨[], some .accepted⟩ }) ∧
    (s.tx.state = .disabled → exec .busoff s = .next { s with port := ⟨[], some .accepted⟩ }) ∧
    (s.tx.state ≠ .disabled → exec .buson s = .next { s with port := ⟨[], some .accepted⟩ }) ∧
    (s.tx.state = .disabled →
      exec .buson s = .next
        { s with
          tx := ⟨.rest, 0, false, s.tx.buffer⟩
          lines := restLines
          timer.armed := false
          rx := rxAfterClock .high s.lines.data s
          routineActive := false
          port :=
            ⟨.setLine .enable .low :: (clockCalls .high s.lines.data s ++ [.setLine .data .high, .disarmTimer]),
              some .accepted⟩ })

/-- While DISABLED, no operation but BUSON and RESET changes the session, the lines, the timer or the hook count
(R82, R111; 93 U9). The disabled state's operations are the spec's own (D10). -/
def Obligations.DisabledBusStaysSilent : Prop :=
  ∀ (s t : State) (i : Instr), Machine.Inv s → s.tx.state = .disabled → i.txState = none → i ≠ .buson → i ≠ .reset →
    exec i s = .next t → t.tx = s.tx ∧ t.lines = s.lines ∧ t.timer = s.timer ∧ t.hookCount = s.hookCount

/-- `tx.buffer` is written by an accepted SEND and by RESET, and by nothing else (R14, R54). -/
def Obligations.BufferIsWrittenBySendAlone : Prop :=
  ∀ (s t : State) (i : Instr), exec i s = .next t →
    t.tx.buffer = s.tx.buffer ∨ i = .reset ∨ ∃ m, i = .send m ∧ s.tx.state = .rest ∧ t.tx.buffer = m

/-- The hook is emitted by END's evaluation, once, inside an EXPIRE that returns to rest (or by the
micro-instruction itself), and by nothing else; RESET sets the count to 0 (R18, R88). -/
def Obligations.HookComesFromEndAlone : Prop :=
  ∀ (s t : State) (i : Instr), Machine.Inv s → exec i s = .next t →
    t.hookCount = s.hookCount ∨ i = .reset ∨ i = .txEnd ∨
      (i = .expire ∧ t.hookCount = s.hookCount + 1 ∧ t.tx.state = .rest ∧ .hook ∈ t.port.calls)

/-- The one atomic TX routine is the TX sequencer run to the operation's end: EXPIRE, an accepted SEND, and BUSON
while DISABLED, the three callers of the routine, answer what the sequencer's steps, at most three, lead to from the
state the operation hands it (R84, R85). The whole operation as one step is the spec's own choice (D3), BUSON too
(D10), its evaluations as steps the model's (log 9). -/
def Obligations.RoutineIsTheSequencer : Prop :=
  (∀ s : State, s.config.wf = true → s.timer.armed = true →
    ∃ t, exec .expire s = .next t ∧ runSequencer 3 { afterExpiry s with routineActive := true } = .next t ∧
      t.routineActive = false) ∧
  (∀ (s : State) (m : Message), s.config.wf = true → s.timer.armed = false → s.tx.state = .rest →
    ∃ t, exec (.send m) s = .next (returning .accepted t) ∧
      runSequencer 3 { beginOp s with tx.buffer := m, tx.state := .start, routineActive := true } = .next t ∧
      t.routineActive = false) ∧
  ∀ s : State, s.tx.state = .disabled →
    ∃ t, exec .buson s = .next (returning .accepted t) ∧
      runSequencer 3 { beginOp s with tx.state := .rest, routineActive := true } = .next t ∧
      t.routineActive = false

/-- A whole session: from an accepted SEND of `m`, exactly 229 EXPIREs (230 with an end hold) lead back to rest,
with one hook, and at every moment before that a SEND returns `Busy` and changes nothing, and the buffer holds
`m` (R89, R54, R86); `run` (R72) stops exactly there. -/
def Obligations.SessionRunsToRest : Prop :=
  ∀ (s : State) (m : Message), Machine.Inv s → s.tx.state = .rest →
    ∃ t₀ t, exec (.send m) s = .next t₀ ∧ execAll (expires (sessionExpiries s.config)) t₀ = .next t ∧
      runTimer (sessionExpiries s.config) t₀ = .next t ∧
      t.tx = ⟨.rest, 0, false, m⟩ ∧ t.lines = restLines ∧ t.timer.armed = false ∧
      t.hookCount = s.hookCount + 1 ∧ t.val = s.val ∧ t.scan = s.scan ∧
      ∀ k < sessionExpiries s.config, ∃ u, execAll (expires k) t₀ = .next u ∧
        u.tx.buffer = m ∧ u.tx.state ≠ .rest ∧ u.timer.armed = true ∧ u.hookCount = s.hookCount ∧
        ∀ m', exec (.send m') u = .next { u with port := ⟨[], some .busy⟩ }

/-- The frame on the wire: the line writes, the delays and the hook of a whole session are those of the table of
R62, in order (RX's own reads of DATA under `LOOPBACK` left out). The table rests on the spec's own choices of
levels, delays and order (D1, D5 to D9, D12) and of the hook's moment (D11). -/
def Obligations.SessionMakesTheFrame : Prop :=
  ∀ (s : State) (m : Message), Machine.Inv s → s.tx.state = .rest →
    ∃ calls t, execAllCalls (session m s.config) s = some (calls, t) ∧
      calls.filter isTxCall = frameCalls m s.config

/-- A remote receiver that latches DATA, inverted, at every rise of CLOCK itself gets the message's 56 bits, most
significant bit of octet 0 first, exactly twice (R90). It holds for every `T_ENDHOLD`, 0 included, because this
receiver latches at the edge; one that reads DATA later may lose the last bit when `T_ENDHOLD` is 0 (R196, D7). -/
def Obligations.ReceiverGetsTheMessageTwice : Prop :=
  ∀ (s : State) (m : Message), Machine.Inv s → s.tx.state = .rest →
    ∃ calls t, execAllCalls (session m s.config) s = some (calls, t) ∧
      receive s.lines.clock s.lines.data calls = twice m

/-- The ticks a session arms add up to the length of R62. -/
def Obligations.SessionTicksAddUp : Prop :=
  ∀ (s : State) (m : Message), Machine.Inv s → s.tx.state = .rest →
    ∃ calls t, execAllCalls (session m s.config) s = some (calls, t) ∧
      armedTicks calls = sessionTicks s.config

/-! ### The receive capture -/

/-- EDGE_L and EDGE_H: the inverted level goes into the cell under the cursor, the cursor moves on modulo 112, the
dirty flag is set whatever the cell held, and nothing else changes (the input lines are the environment's, log
15; the boundary record is the model's, log 8). Always enabled. -/
def Obligations.EdgePushesOneBit : Prop :=
  ∀ s : State,
    (∃ t, exec .edgeL s = .next t ∧ ringRead t s.rx.cursor.val = true ∧
      (∀ j, j % 112 ≠ s.rx.cursor.val → ringRead t j = ringRead s j) ∧
      t.rx.cursor.val = (s.rx.cursor.val + 1) % 112 ∧ t.rx.dirty = true ∧
      t = { s with rx := t.rx, inp := t.inp, port := ⟨[.readData .low], none⟩ }) ∧
    (∃ t, exec .edgeH s = .next t ∧ ringRead t s.rx.cursor.val = false ∧
      (∀ j, j % 112 ≠ s.rx.cursor.val → ringRead t j = ringRead s j) ∧
      t.rx.cursor.val = (s.rx.cursor.val + 1) % 112 ∧ t.rx.dirty = true ∧
      t = { s with rx := t.rx, inp := t.inp, port := ⟨[.readData .high], none⟩ })

/-- `RingRead` and `RingWrite` take their index modulo 112: a read gives the cell named, a write stores the bit in
it, every other cell and every other field is as before, and a read changes nothing (it is a function). -/
def Obligations.RingReadAfterWrite : Prop :=
  ∀ (s : State) (j k : Nat) (b : Bool),
    ringRead s j = s.rx.ring[j % 112]'(Nat.mod_lt _ (by decide)) ∧
    ringRead (ringWrite k b s) j = (if j % 112 = k % 112 then b else ringRead s j) ∧
    ringWrite k b s = { s with rx := { s.rx with ring := (ringWrite k b s).rx.ring } }

/-- The ring is the window of the last 112 samples: after any samples `bs`, reading from the cursor gives the old
window and `bs` behind it, less as many of the oldest (R57, derived by the spec from R56 and R120). -/
def Obligations.RingIsTheLastSamples : Prop :=
  ∀ (s : State) (bs : List Bool), ∃ t, execAll (rxbits bs) s = .next t ∧
    window t = (window s ++ bs).drop bs.length ∧
    t.rx.cursor.val = (s.rx.cursor.val + bs.length) % 112 ∧
    t.rx.dirty = (s.rx.dirty || !bs.isEmpty) ∧
    t = { s with rx := t.rx, inp := t.inp, port := t.port }

/-- With no `LOOPBACK`, the ring and its cursor are written by EDGE and RESET alone, and the dirty flag by EDGE,
the begin of a scan and RESET alone (R56, R21). -/
def Obligations.RingIsWrittenByEdgeAlone : Prop :=
  ∀ (s t : State) (i : Instr), s.config.loopback = false → exec i s = .next t →
    ((t.rx.ring = s.rx.ring ∧ t.rx.cursor = s.rx.cursor) ∨ isEdge i = true ∨ i = .reset) ∧
    (t.rx.dirty = s.rx.dirty ∨ (isEdge i = true ∧ t.rx.dirty = true) ∨
      ((i = .pbegin ∨ i = .poll ∨ i = .reset) ∧ t.rx.dirty = false))

/-- RX and the validator never touch the transmitter: EDGE and the steps of a poll leave the session, the lines,
the timer and the hook count (R123, R126, R48). -/
def Obligations.ReceiverLeavesTheTransmitter : Prop :=
  ∀ (s t : State) (i : Instr), isEdge i = true ∨ isPollStep i = true → exec i s = .next t →
    t.tx = s.tx ∧ t.lines = s.lines ∧ t.timer = s.timer ∧ t.hookCount = s.hookCount ∧
      t.routineActive = s.routineActive

/-- The two interrupts commute when the transmitter is not looped back: served in either order they leave the
same core, the boundary record of the later one aside (R154; either order is the spec's own choice, D28). -/
def Obligations.InterruptsCommute : Prop :=
  ∀ (s : State) (e : Instr), Machine.Inv s → s.timer.armed = true → s.config.loopback = false → isEdge e = true →
    ∃ t₁ u t₂ v, exec .expire s = .next t₁ ∧ exec e t₁ = .next u ∧
      exec e s = .next t₂ ∧ exec .expire t₂ = .next v ∧ { u with port := v.port } = v

/-! ### The validator -/

/-- PBEGIN outside a scan clears the dirty flag, freezes the cursor and starts at pair 0 with clear flags, and
changes nothing else; inside a scan it is refused by name. Cutting a poll into steps and freezing the cursor are
the spec's own choices (D19, D20). -/
def Obligations.PbeginStartsAScan : Prop :=
  ∀ s : State,
    (s.scan.active = false →
      exec .pbegin s = .next
        { s with
          rx.dirty := false
          scan := ⟨true, s.rx.cursor, 0, false, false, s.scan.snap⟩
          port := ⟨[], none⟩ }) ∧
    (s.scan.active = true → exec .pbegin s = .refused .scanAlreadyActive)

/-- PCMP in a scan compares pair `i` of the two halves, the indices taken modulo 112 from the frozen cursor:
unequal bits end the scan with `None`; equal bits are kept, the degeneracy flags follow the newer bit, and the
index moves on. Nothing else changes. With no scan, or after 56 pairs, it is refused by name. (D19, D21.) -/
def Obligations.PcmpComparesOnePair : Prop :=
  ∀ s : State,
    (s.scan.active = true → ∀ h : s.scan.i.val < 56,
      let a := s.rx.ring[(s.scan.base.val + s.scan.i.val) % 112]'(Nat.mod_lt _ (by decide))
      let b := s.rx.ring[(s.scan.base.val + s.scan.i.val + 56) % 112]'(Nat.mod_lt _ (by decide))
      (a ≠ b → exec .pcmp s = .next { s with scan.active := false, port := ⟨[], some .noMessage⟩ }) ∧
      (a = b → ∃ t, exec .pcmp s = .next t ∧
        t = { s with scan := t.scan, port := ⟨[], none⟩ } ∧
        t.scan.active = true ∧ t.scan.base = s.scan.base ∧ t.scan.i.val = s.scan.i.val + 1 ∧
        (∀ j : Fin 56, t.scan.snap[j] = if j.val = s.scan.i.val then b else s.scan.snap[j]) ∧
        (t.scan.seen0 = true ↔ b = false ∨ s.scan.seen0 = true) ∧
        (t.scan.ok01 = true ↔ (b = true ∧ s.scan.seen0 = true) ∨ s.scan.ok01 = true))) ∧
    (s.scan.active = false ∨ s.scan.i.val = 56 → exec .pcmp s = .refused .pcmpNotAdmitted)

/-- PEND after 56 pairs ends the scan: with a degenerate sequence or a set dirty flag it returns `None` and
commits nothing; otherwise it commits the packed snapshot and returns it, and primes the change counter exactly
when the message differs from `val.last_change`. Nothing else changes; the dirty flag is not cleared. Before 56
pairs, or with no scan, it is refused by name. (D19, D22, D23.) -/
def Obligations.PendCommitsACleanScan : Prop :=
  ∀ s : State,
    (s.scan.active = true → s.scan.i.val = 56 →
      (s.scan.ok01 = false ∨ s.rx.dirty = true →
        exec .pend s = .next { s with scan.active := false, port := ⟨[], some .noMessage⟩ }) ∧
      (s.scan.ok01 = true → s.rx.dirty = false → ∃ t, exec .pend s = .next t ∧
        t = { s with scan.active := false, val := t.val, port := ⟨[], some (.message (pack s.scan.snap))⟩ } ∧
        t.val.lastValid = pack s.scan.snap ∧ t.val.isValid = true ∧
        (pack s.scan.snap ≠ s.val.lastChange →
          t.val.changeCounter = s.config.changePrime ∧ t.val.lastChange = pack s.scan.snap) ∧
        (pack s.scan.snap = s.val.lastChange →
          t.val.changeCounter = s.val.changeCounter ∧ t.val.lastChange = s.val.lastChange))) ∧
    (s.scan.active = false ∨ s.scan.i.val < 56 → exec .pend s = .refused .pendNotAdmitted)

/-- The degenerate sequences are exactly the 57 of the form ones then zeros; after 56 pairs of a scan that keeps
the invariant `scan.ok01` says that the snapshot is not degenerate; SEND takes a degenerate message as any other,
and no operation ever returns one. -/
def Obligations.DegenerateIsOnesThenZeros : Prop :=
  (∀ v : Vector Bool 56,
    nonDegenerate v = true ↔ ∃ i j : Fin 56, i < j ∧ v[i] = false ∧ v[j] = true) ∧
  (∀ v : Vector Bool 56,
    nonDegenerate v = false ↔ ∃ a ≤ 56, ∀ i : Fin 56, v[i] = decide (i.val < a)) ∧
  (∃ l : List (Vector Bool 56), l.length = 57 ∧ l.Nodup ∧ ∀ v, v ∈ l ↔ nonDegenerate v = false) ∧
  (∀ s : State, Machine.Inv s → s.scan.active = true → s.scan.i.val = 56 →
    s.scan.ok01 = nonDegenerate s.scan.snap) ∧
  (∀ (s : State) (m : Message), Machine.Inv s → s.tx.state = .rest → nonDegenerate (messageBits m) = false →
    ∃ t, exec (.send m) s = .next t ∧ t.port.result = some .accepted ∧ t.tx.buffer = m) ∧
  ∀ (s t : State) (i : Instr) (m : Message), Machine.Inv s → i.txState = none → exec i s = .next t →
    t.port.result = some (.message m) → nonDegenerate (messageBits m) = true

/-- A poll with nothing in between is a function of the window: when the halves agree and the newer is not
degenerate it returns and commits that half; otherwise it returns `None` and leaves `val.*`. Either way the scan
is over, the dirty flag is clear, and the ring, the transmitter and the rest are as before. (R136, derived.) -/
def Obligations.PollIsAFunctionOfTheWindow : Prop :=
  ∀ s : State, s.scan.active = false → ∃ t, exec .poll s = .next t ∧
    t = { s with rx.dirty := false, scan := t.scan, val := t.val, port := t.port } ∧
    t.scan.active = false ∧ t.port.calls = [] ∧
    (halvesAgree s ∧ nonDegenerate (newerHalf s) = true →
      t.port.result = some (.message (pack (newerHalf s))) ∧
      t.val.lastValid = pack (newerHalf s) ∧ t.val.isValid = true ∧ t.val.lastChange = pack (newerHalf s) ∧
      t.val.changeCounter =
        if pack (newerHalf s) = s.val.lastChange then s.val.changeCounter else s.config.changePrime) ∧
    (¬ (halvesAgree s ∧ nonDegenerate (newerHalf s) = true) →
      t.port.result = some .noMessage ∧ t.val = s.val)

/-- A POLL inside a scan is refused by name: its PBEGIN is not admitted (R131, R72). -/
def Obligations.PollInsideAScanIsRefused : Prop :=
  ∀ s : State, s.scan.active = true → exec .poll s = .refused .scanAlreadyActive

/-- A torn scan never commits: when an EDGE has fallen since the begin of a scan, `val.*` is as it was and the dirty
flag is set, and the PEND that ends the scan returns `None` and commits nothing, whatever the ring holds and whatever
else fell in between (R136, R53; derived). The EDGE may be one of the operations, or the capture an EXPIRE makes
under `LOOPBACK` (R125, D18; log 13), seen by `rx.cursor` moving; a dirty flag set by whatever cause does as well. -/
def Obligations.TornScanNeverCommits : Prop :=
  ∀ (s₀ s t : State) (is : List Instr), exec .pbegin s₀ = .next s →
    (∀ i ∈ is, mayFallInScan i = true) → execAll is s = .next t →
    (∃ i ∈ is, isEdge i = true) ∨
      (∃ before i after v w, is = before ++ i :: after ∧ execAll before s = .next v ∧ exec i v = .next w ∧
        w.rx.cursor ≠ v.rx.cursor) ∨
      t.rx.dirty = true →
    t.val = s₀.val ∧ t.rx.dirty = true ∧
      ∀ u, exec .pend t = .next u → u.port.result = some .noMessage ∧ u.val = s₀.val ∧ u.rx.dirty = true

/-- `None` is no error: PCMP returns it on an unequal pair and PEND on a degenerate sequence or a set dirty flag;
only these, and a POLL made of them, return it; and an operation that does writes nothing but the dirty flag and
the scan (and the model's boundary record, log 8), and ends the scan. Its code is 0. -/
def Obligations.NoneLeavesTheRecord : Prop :=
  (∀ s : State, s.scan.active = true → s.scan.i.val < 56 →
    olderBit s s.scan.i.val ≠ newerBit s s.scan.i.val →
      ∃ t, exec .pcmp s = .next t ∧ t.port.result = some .noMessage) ∧
  (∀ s : State, s.scan.active = true → s.scan.i.val = 56 → s.scan.ok01 = false ∨ s.rx.dirty = true →
    ∃ t, exec .pend s = .next t ∧ t.port.result = some .noMessage) ∧
  (∀ (s t : State) (i : Instr), i.txState = none → exec i s = .next t → t.port.result = some .noMessage →
    ((i = .pcmp ∧ olderBit s s.scan.i.val ≠ newerBit s s.scan.i.val) ∨
      (i = .pend ∧ (s.scan.ok01 = false ∨ s.rx.dirty = true)) ∨ i = .poll) ∧
    t = { s with rx.dirty := t.rx.dirty, scan := t.scan, port := t.port } ∧
    (i = .poll → t.rx.dirty = false) ∧ (i ≠ .poll → t.rx.dirty = s.rx.dirty) ∧ t.scan.active = false) ∧
  Result.code .noMessage = false

/-- `val.*` is written by a PEND or POLL that returns a message, and by RESET, alone; and once set, `val.is_valid`
is cleared by RESET alone (R23, R24, R26). -/
def Obligations.RecordIsWrittenByCommitAlone : Prop :=
  ∀ (s t : State) (i : Instr), exec i s = .next t →
    (t.val = s.val ∨ i = .reset ∨
      ((i = .pend ∨ i = .poll) ∧ ∃ m, t.port.result = some (.message m) ∧ t.val.lastValid = m)) ∧
    (s.val.isValid = true → t.val.isValid = true ∨ i = .reset)

/-- Stale data stays valid: with no EDGE in between, a POLL after a POLL returns the same outcome and does not
touch `val.*` again (R191, R138; the counter clause is R135's). -/
def Obligations.PollAgainIsTheSame : Prop :=
  ∀ s : State, s.scan.active = false → ∃ t u, exec .poll s = .next t ∧ exec .poll t = .next u ∧
    u.port.result = t.port.result ∧ u.val = t.val ∧ u.rx = t.rx

/-- With `LOOPBACK`, either `RX_EDGE`, a session fills the ring with the message twice, and the next POLL returns
the message unless it is degenerate, in which case it returns `None` (R125, R193, R190). The premise is
`RX_SERVICE_TIMELY` (R124, R158, D17): every edge samples DATA at the CLOCK write, as the model has it (log 13,
log 16); with `T_ENDHOLD` 0 a later service would read the rest level for the last bit (R196). -/
def Obligations.LoopbackSessionValidates : Prop :=
  ∀ (s : State) (m : Message), Machine.Inv s → s.tx.state = .rest → s.config.loopback = true →
    s.scan.active = false →
    ∃ t u, execAll (session m s.config) s = .next t ∧ window t = twice m ∧ t.val = s.val ∧
      exec .poll t = .next u ∧
      u.port.result =
        some (if nonDegenerate (messageBits m) then .message m else .noMessage)

/-- Two passes and a poll: whatever the ring held, after the 56 bits of `m` and the 56 bits of `m'` a POLL returns
`m` when the passes are equal and not degenerate, and `None` otherwise (P5, P6 and P7 of 95_test_vectors.md;
R136, derived; every EDGE served under `RX_SERVICE_TIMELY`, log 16). -/
def Obligations.PollAfterTwoPasses : Prop :=
  ∀ (s : State) (m m' : Message), s.scan.active = false →
    ∃ t u, execAll (rx m ++ rx m') s = .next t ∧ exec .poll t = .next u ∧
      u.port.result =
        some (if m = m' ∧ nonDegenerate (messageBits m) = true then .message m else .noMessage)

/-! ### Whole-machine rules -/

/-- Every step keeps the invariant (R34). -/
def Obligations.StepKeepsInv : Prop :=
  ∀ s t : State, Machine.Inv s → step s = .next t → Machine.Inv t

/-- From a state of the invariant a step is never refused for an inner reason: the timer is never armed twice or
out of range, and the routine never overruns (R17, R84, R161). -/
def Obligations.OnlyTheTraceIsRefused : Prop :=
  ∀ (s : State) (r : Refusal), Machine.Inv s → step s = .refused r → isAdmissionRefusal r = true

/-- No operation writes the constants of the build (R28), and none reaches into the trace (the model's, log 5). -/
def Obligations.ConstantsAreConstant : Prop :=
  ∀ (s t : State) (i : Instr), exec i s = .next t → t.config = s.config ∧ t.trace = s.trace

/-- The tick formula gives both tables of R5, at 18.432 MHz and 14.7456 MHz (90_conflicts.md C3), and rounds a half
up. The formula is the spec's own choice (D13). -/
def Obligations.TickFormulaGivesBothTables : Prop :=
  tickTable 18432000 = configTicks Config.buildA ∧ tickTable 14745600 = configTicks Config.buildB ∧
  ticksOf 65 20000000 = 163 ∧
  ∀ d f : Nat, 16000000 * ticksOf d f ≤ 2 * (d * f) + 8000000 ∧ 2 * (d * f) + 8000000 < 16000000 * (ticksOf d f + 1)

/-- From 100 kHz on, no duration of the core rounds to 0 ticks, so no timed state becomes an immediate one (R7,
derived by the spec from R6). -/
def Obligations.NoDurationRoundsToZero : Prop :=
  ∀ f : Nat, 100000 ≤ f → ∀ t ∈ tickTable f, 1 ≤ t

/-- At the ports (R166, the spec's own choice, D27): each request port, raised alone and with no `RX_EDGE` transition
of `CLOCK_IN`, is its operation; that transition alone, of either polarity, is EDGE with the level of `DATA_IN`
(R122); nothing raised sets the input lines alone; and two at once are refused. Levels: 1 is `H`. The refusal, and
that a request inside a scan is performed as any other, are the model's (log 25). -/
def Obligations.PortsRequestOperations : Prop :=
  (∀ (s : State) (p : PortInputs), clockInEdge p s = false →
    (p = { quiet p with rst := true } →
      portStep p s = exec .reset { s with inp := ⟨bitLevel p.clockIn, bitLevel p.dataIn⟩ }) ∧
    (p = { quiet p with sendReq := true } →
      portStep p s =
        exec (.send (messageOfWord p.sendMsg)) { s with inp := ⟨bitLevel p.clockIn, bitLevel p.dataIn⟩ }) ∧
    (p = { quiet p with busoffReq := true } →
      portStep p s = exec .busoff { s with inp := ⟨bitLevel p.clockIn, bitLevel p.dataIn⟩ }) ∧
    (p = { quiet p with busonReq := true } →
      portStep p s = exec .buson { s with inp := ⟨bitLevel p.clockIn, bitLevel p.dataIn⟩ }) ∧
    (p = { quiet p with timerFire := true } →
      portStep p s = exec .expire { s with inp := ⟨bitLevel p.clockIn, bitLevel p.dataIn⟩ }) ∧
    (p = { quiet p with pollBegin := true } →
      portStep p s = exec .pbegin { s with inp := ⟨bitLevel p.clockIn, bitLevel p.dataIn⟩ }) ∧
    (p = { quiet p with pollStep := true } →
      portStep p s = exec .pcmp { s with inp := ⟨bitLevel p.clockIn, bitLevel p.dataIn⟩ }) ∧
    (p = { quiet p with pollEnd := true } →
      portStep p s = exec .pend { s with inp := ⟨bitLevel p.clockIn, bitLevel p.dataIn⟩ }) ∧
    (p = quiet p →
      portStep p s = .next { s with inp := ⟨bitLevel p.clockIn, bitLevel p.dataIn⟩, port := ⟨[], none⟩ })) ∧
  (∀ (s : State) (p : PortInputs), s.config.loopback = false →
    (s.config.rxEdge = .rising ∧ s.inp.clock = .low ∧ p.clockIn = true) ∨
      (s.config.rxEdge = .falling ∧ s.inp.clock = .high ∧ p.clockIn = false) →
    p = quiet p →
      (p.dataIn = false →
        portStep p s = exec .edgeL { s with inp := ⟨bitLevel p.clockIn, bitLevel p.dataIn⟩ }) ∧
      (p.dataIn = true →
        portStep p s = exec .edgeH { s with inp := ⟨bitLevel p.clockIn, bitLevel p.dataIn⟩ })) ∧
  (∀ (s : State) (p : PortInputs), 2 ≤ (clockInEdge p s :: requestBits p).count true →
    portStep p s = .refused .simultaneousRequests) ∧
  bitLevel true = .high ∧ bitLevel false = .low

/-- The output ports show the lines, the record and what the latest operation did (R166, the spec's own choice,
D27). `send_busy` is the outcome of SEND and BUSOFF. `timer_arm` and `timer_ticks` show the count an accepted SEND, or
any EXPIRE that goes on, arms. `hook` and `timer_disarm` are up after the EXPIRE that evaluates END, with an end hold
or without (D7), and `timer_disarm` after a BUSON that leaves DISABLED. `poll_some` and `poll_msg` show the outcome of
a PEND and of a PCMP that fails. The zeros of the ports of other operations are the model's (log 25). -/
def Obligations.PortOutputsShowTheOperation : Prop :=
  (∀ s : State,
    ((portOutputs s).enable = true ↔ s.lines.enable = .high) ∧
    ((portOutputs s).clock = true ↔ s.lines.clock = .high) ∧
    ((portOutputs s).data = true ↔ s.lines.data = .high) ∧
    (portOutputs s).lastValid = messageWord s.val.lastValid ∧ (portOutputs s).isValid = s.val.isValid ∧
    (portOutputs s).changeCounter = s.val.changeCounter) ∧
  (∀ (s : State) (m : Message), Machine.Inv s → s.tx.state = .rest →
    ∃ t, exec (.send m) s = .next t ∧ (portOutputs t).sendBusy = false ∧ (portOutputs t).timerArm = true ∧
      (portOutputs t).timerTicks = s.config.t100 ∧ (portOutputs t).timerDisarm = false ∧
      (portOutputs t).hook = false ∧ (portOutputs t).pollSome = false) ∧
  (∀ (s : State) (m : Message), s.tx.state ≠ .rest →
    ∃ t, exec (.send m) s = .next t ∧ (portOutputs t).sendBusy = true ∧ (portOutputs t).timerArm = false ∧
      (portOutputs t).timerDisarm = false ∧ (portOutputs t).hook = false) ∧
  (∀ s : State, Machine.Inv s → s.timer.armed = true →
    ∃ t, exec .expire s = .next t ∧
      (s.tx.state = .endSeq ∨
          (s.tx.state = .clk ∧ s.tx.bitCursor.val = 55 ∧ s.tx.repeatFlag = true ∧ s.config.tEndHold = 0) →
        (portOutputs t).hook = true ∧ (portOutputs t).timerDisarm = true ∧ (portOutputs t).timerArm = false) ∧
      (¬ (s.tx.state = .endSeq ∨
          (s.tx.state = .clk ∧ s.tx.bitCursor.val = 55 ∧ s.tx.repeatFlag = true ∧ s.config.tEndHold = 0)) →
        (portOutputs t).hook = false ∧ (portOutputs t).timerDisarm = false ∧ (portOutputs t).timerArm = true ∧
          t.timer = ⟨true, (portOutputs t).timerTicks⟩)) ∧
  (∀ s : State, ∃ t, exec .busoff s = .next t ∧
    (portOutputs t).sendBusy = decide (s.tx.state ≠ .rest ∧ s.tx.state ≠ .disabled) ∧
    (portOutputs t).timerArm = false ∧ (portOutputs t).timerDisarm = false ∧ (portOutputs t).hook = false) ∧
  (∀ s : State, s.tx.state = .disabled → ∃ t, exec .buson s = .next t ∧ (portOutputs t).timerDisarm = true ∧
    (portOutputs t).timerArm = false ∧ (portOutputs t).hook = false) ∧
  (∀ s : State, s.scan.active = true → s.scan.i.val = 56 →
    ∃ t, exec .pend s = .next t ∧
      (s.scan.ok01 = true ∧ s.rx.dirty = false →
        (portOutputs t).pollSome = true ∧ (portOutputs t).pollMsg = messageWord (pack s.scan.snap) ∧
        (portOutputs t).lastValid = messageWord (pack s.scan.snap) ∧ (portOutputs t).isValid = true) ∧
      (s.scan.ok01 = false ∨ s.rx.dirty = true → (portOutputs t).pollSome = false)) ∧
  ∀ s : State, s.scan.active = true → s.scan.i.val < 56 →
    olderBit s s.scan.i.val ≠ newerBit s s.scan.i.val →
      ∃ t, exec .pcmp s = .next t ∧ (portOutputs t).pollSome = false

/-! ### SEND beside EXPIRE -/

/-- R51 item 4 and R80 (b), as far as the pseudocode of R80 and R81 bears them out: whenever an EXPIRE is enabled, a
SEND before it is Busy and the EXPIRE then answers what it would have answered alone; a SEND after it is Busy too and
leaves the same state, the boundary record aside (log 8), unless the EXPIRE was the one that ends the session. After
that one, and only then, `tx.state` is REST and the SEND is accepted (log 21). -/
def Obligations.SendAndExpireInEitherOrder : Prop :=
  ∀ (s : State) (m : Message), Machine.Inv s → s.timer.armed = true →
    ∃ b t, exec (.send m) s = .next b ∧ b = { s with port := ⟨[], some .busy⟩ } ∧
      exec .expire s = .next t ∧ exec .expire b = .next t ∧
      (t.tx.state = .rest ↔
        s.tx.state = .endSeq ∨
          (s.tx.state = .clk ∧ s.tx.bitCursor.val = 55 ∧ s.tx.repeatFlag = true ∧ s.config.tEndHold = 0)) ∧
      (t.tx.state ≠ .rest → exec (.send m) t = .next { t with port := ⟨[], some .busy⟩ }) ∧
      (t.tx.state = .rest → ∃ u, exec (.send m) t = .next u ∧ u.port.result = some .accepted ∧
        u.tx = ⟨.enHiA, 0, false, m⟩ ∧ u.timer = ⟨true, s.config.t100⟩)

end
end

