-- ==== Sys2Proof/Laws/State.lean ====
section
/-! SUPPORT. One lemma per field per shared operation: what the field is after it. The provers cite these and do
not unfold the operations. -/

namespace Sys2Proof.Machine

@[simp] theorem record_tx (c : Call) (s : State) : (record c s).tx = s.tx := rfl
@[simp] theorem record_lines (c : Call) (s : State) : (record c s).lines = s.lines := rfl
@[simp] theorem record_timer (c : Call) (s : State) : (record c s).timer = s.timer := rfl
@[simp] theorem record_hookCount (c : Call) (s : State) : (record c s).hookCount = s.hookCount := rfl
@[simp] theorem record_rx (c : Call) (s : State) : (record c s).rx = s.rx := rfl
@[simp] theorem record_inp (c : Call) (s : State) : (record c s).inp = s.inp := rfl
@[simp] theorem record_val (c : Call) (s : State) : (record c s).val = s.val := rfl
@[simp] theorem record_scan (c : Call) (s : State) : (record c s).scan = s.scan := rfl
@[simp] theorem record_config (c : Call) (s : State) : (record c s).config = s.config := rfl
@[simp] theorem record_port (c : Call) (s : State) :
    (record c s).port = ⟨s.port.calls ++ [c], s.port.result⟩ := rfl
@[simp] theorem record_routineActive (c : Call) (s : State) :
    (record c s).routineActive = s.routineActive := rfl
@[simp] theorem record_trace (c : Call) (s : State) : (record c s).trace = s.trace := rfl

@[simp] theorem beginOp_tx (s : State) : (beginOp s).tx = s.tx := rfl
@[simp] theorem beginOp_lines (s : State) : (beginOp s).lines = s.lines := rfl
@[simp] theorem beginOp_timer (s : State) : (beginOp s).timer = s.timer := rfl
@[simp] theorem beginOp_hookCount (s : State) : (beginOp s).hookCount = s.hookCount := rfl
@[simp] theorem beginOp_rx (s : State) : (beginOp s).rx = s.rx := rfl
@[simp] theorem beginOp_inp (s : State) : (beginOp s).inp = s.inp := rfl
@[simp] theorem beginOp_val (s : State) : (beginOp s).val = s.val := rfl
@[simp] theorem beginOp_scan (s : State) : (beginOp s).scan = s.scan := rfl
@[simp] theorem beginOp_config (s : State) : (beginOp s).config = s.config := rfl
@[simp] theorem beginOp_port (s : State) : (beginOp s).port = ⟨[], none⟩ := rfl
@[simp] theorem beginOp_routineActive (s : State) : (beginOp s).routineActive = s.routineActive := rfl
@[simp] theorem beginOp_trace (s : State) : (beginOp s).trace = s.trace := rfl

@[simp] theorem returning_tx (r : Result) (s : State) : (returning r s).tx = s.tx := rfl
@[simp] theorem returning_lines (r : Result) (s : State) : (returning r s).lines = s.lines := rfl
@[simp] theorem returning_timer (r : Result) (s : State) : (returning r s).timer = s.timer := rfl
@[simp] theorem returning_hookCount (r : Result) (s : State) : (returning r s).hookCount = s.hookCount := rfl
@[simp] theorem returning_rx (r : Result) (s : State) : (returning r s).rx = s.rx := rfl
@[simp] theorem returning_inp (r : Result) (s : State) : (returning r s).inp = s.inp := rfl
@[simp] theorem returning_val (r : Result) (s : State) : (returning r s).val = s.val := rfl
@[simp] theorem returning_scan (r : Result) (s : State) : (returning r s).scan = s.scan := rfl
@[simp] theorem returning_config (r : Result) (s : State) : (returning r s).config = s.config := rfl
@[simp] theorem returning_port (r : Result) (s : State) : (returning r s).port = ⟨s.port.calls, some r⟩ := rfl
@[simp] theorem returning_routineActive (r : Result) (s : State) :
    (returning r s).routineActive = s.routineActive := rfl
@[simp] theorem returning_trace (r : Result) (s : State) : (returning r s).trace = s.trace := rfl

@[simp] theorem disarm_tx (s : State) : (disarm s).tx = s.tx := rfl
@[simp] theorem disarm_lines (s : State) : (disarm s).lines = s.lines := rfl
@[simp] theorem disarm_timer (s : State) : (disarm s).timer = ⟨false, s.timer.remaining⟩ := rfl
@[simp] theorem disarm_hookCount (s : State) : (disarm s).hookCount = s.hookCount := rfl
@[simp] theorem disarm_rx (s : State) : (disarm s).rx = s.rx := rfl
@[simp] theorem disarm_inp (s : State) : (disarm s).inp = s.inp := rfl
@[simp] theorem disarm_val (s : State) : (disarm s).val = s.val := rfl
@[simp] theorem disarm_scan (s : State) : (disarm s).scan = s.scan := rfl
@[simp] theorem disarm_config (s : State) : (disarm s).config = s.config := rfl
@[simp] theorem disarm_port (s : State) :
    (disarm s).port = ⟨s.port.calls ++ [.disarmTimer], s.port.result⟩ := rfl
@[simp] theorem disarm_routineActive (s : State) : (disarm s).routineActive = s.routineActive := rfl
@[simp] theorem disarm_trace (s : State) : (disarm s).trace = s.trace := rfl

@[simp] theorem letTimeRunOut_tx (s : State) : (letTimeRunOut s).tx = s.tx := rfl
@[simp] theorem letTimeRunOut_lines (s : State) : (letTimeRunOut s).lines = s.lines := rfl
@[simp] theorem letTimeRunOut_timer (s : State) : (letTimeRunOut s).timer = ⟨s.timer.armed, 0⟩ := rfl
@[simp] theorem letTimeRunOut_hookCount (s : State) : (letTimeRunOut s).hookCount = s.hookCount := rfl
@[simp] theorem letTimeRunOut_rx (s : State) : (letTimeRunOut s).rx = s.rx := rfl
@[simp] theorem letTimeRunOut_inp (s : State) : (letTimeRunOut s).inp = s.inp := rfl
@[simp] theorem letTimeRunOut_val (s : State) : (letTimeRunOut s).val = s.val := rfl
@[simp] theorem letTimeRunOut_scan (s : State) : (letTimeRunOut s).scan = s.scan := rfl
@[simp] theorem letTimeRunOut_config (s : State) : (letTimeRunOut s).config = s.config := rfl
@[simp] theorem letTimeRunOut_port (s : State) : (letTimeRunOut s).port = s.port := rfl
@[simp] theorem letTimeRunOut_routineActive (s : State) :
    (letTimeRunOut s).routineActive = s.routineActive := rfl
@[simp] theorem letTimeRunOut_trace (s : State) : (letTimeRunOut s).trace = s.trace := rfl

@[simp] theorem takeExpiry_tx (s : State) : (takeExpiry s).tx = s.tx := rfl
@[simp] theorem takeExpiry_lines (s : State) : (takeExpiry s).lines = s.lines := rfl
@[simp] theorem takeExpiry_timer (s : State) : (takeExpiry s).timer = ⟨false, s.timer.remaining⟩ := rfl
@[simp] theorem takeExpiry_hookCount (s : State) : (takeExpiry s).hookCount = s.hookCount := rfl
@[simp] theorem takeExpiry_rx (s : State) : (takeExpiry s).rx = s.rx := rfl
@[simp] theorem takeExpiry_inp (s : State) : (takeExpiry s).inp = s.inp := rfl
@[simp] theorem takeExpiry_val (s : State) : (takeExpiry s).val = s.val := rfl
@[simp] theorem takeExpiry_scan (s : State) : (takeExpiry s).scan = s.scan := rfl
@[simp] theorem takeExpiry_config (s : State) : (takeExpiry s).config = s.config := rfl
@[simp] theorem takeExpiry_port (s : State) : (takeExpiry s).port = s.port := rfl
@[simp] theorem takeExpiry_routineActive (s : State) : (takeExpiry s).routineActive = s.routineActive := rfl
@[simp] theorem takeExpiry_trace (s : State) : (takeExpiry s).trace = s.trace := rfl

@[simp] theorem emitHook_tx (s : State) : (emitHook s).tx = s.tx := rfl
@[simp] theorem emitHook_lines (s : State) : (emitHook s).lines = s.lines := rfl
@[simp] theorem emitHook_timer (s : State) : (emitHook s).timer = s.timer := rfl
@[simp] theorem emitHook_hookCount (s : State) : (emitHook s).hookCount = s.hookCount + 1 := rfl
@[simp] theorem emitHook_rx (s : State) : (emitHook s).rx = s.rx := rfl
@[simp] theorem emitHook_inp (s : State) : (emitHook s).inp = s.inp := rfl
@[simp] theorem emitHook_val (s : State) : (emitHook s).val = s.val := rfl
@[simp] theorem emitHook_scan (s : State) : (emitHook s).scan = s.scan := rfl
@[simp] theorem emitHook_config (s : State) : (emitHook s).config = s.config := rfl
@[simp] theorem emitHook_port (s : State) :
    (emitHook s).port = ⟨s.port.calls ++ [.hook], s.port.result⟩ := rfl
@[simp] theorem emitHook_routineActive (s : State) : (emitHook s).routineActive = s.routineActive := rfl
@[simp] theorem emitHook_trace (s : State) : (emitHook s).trace = s.trace := rfl

@[simp] theorem ringWrite_tx (j : Nat) (b : Bool) (s : State) : (ringWrite j b s).tx = s.tx := rfl
@[simp] theorem ringWrite_lines (j : Nat) (b : Bool) (s : State) : (ringWrite j b s).lines = s.lines := rfl
@[simp] theorem ringWrite_timer (j : Nat) (b : Bool) (s : State) : (ringWrite j b s).timer = s.timer := rfl
@[simp] theorem ringWrite_hookCount (j : Nat) (b : Bool) (s : State) :
    (ringWrite j b s).hookCount = s.hookCount := rfl
@[simp] theorem ringWrite_rx (j : Nat) (b : Bool) (s : State) :
    (ringWrite j b s).rx = ⟨s.rx.ring.set (ringIndex j).val b (ringIndex j).isLt, s.rx.cursor, s.rx.dirty⟩ := rfl
@[simp] theorem ringWrite_inp (j : Nat) (b : Bool) (s : State) : (ringWrite j b s).inp = s.inp := rfl
@[simp] theorem ringWrite_val (j : Nat) (b : Bool) (s : State) : (ringWrite j b s).val = s.val := rfl
@[simp] theorem ringWrite_scan (j : Nat) (b : Bool) (s : State) : (ringWrite j b s).scan = s.scan := rfl
@[simp] theorem ringWrite_config (j : Nat) (b : Bool) (s : State) : (ringWrite j b s).config = s.config := rfl
@[simp] theorem ringWrite_port (j : Nat) (b : Bool) (s : State) : (ringWrite j b s).port = s.port := rfl
@[simp] theorem ringWrite_routineActive (j : Nat) (b : Bool) (s : State) :
    (ringWrite j b s).routineActive = s.routineActive := rfl
@[simp] theorem ringWrite_trace (j : Nat) (b : Bool) (s : State) : (ringWrite j b s).trace = s.trace := rfl

@[simp] theorem capture_tx (d : Level) (s : State) : (capture d s).tx = s.tx := rfl
@[simp] theorem capture_lines (d : Level) (s : State) : (capture d s).lines = s.lines := rfl
@[simp] theorem capture_timer (d : Level) (s : State) : (capture d s).timer = s.timer := rfl
@[simp] theorem capture_hookCount (d : Level) (s : State) : (capture d s).hookCount = s.hookCount := rfl
@[simp] theorem capture_rx (d : Level) (s : State) :
    (capture d s).rx = ⟨s.rx.ring.set (ringIndex s.rx.cursor.val).val (bitOf d) (ringIndex s.rx.cursor.val).isLt,
      ringIndex (s.rx.cursor.val + 1), true⟩ := rfl
@[simp] theorem capture_inp (d : Level) (s : State) : (capture d s).inp = s.inp := rfl
@[simp] theorem capture_val (d : Level) (s : State) : (capture d s).val = s.val := rfl
@[simp] theorem capture_scan (d : Level) (s : State) : (capture d s).scan = s.scan := rfl
@[simp] theorem capture_config (d : Level) (s : State) : (capture d s).config = s.config := rfl
@[simp] theorem capture_port (d : Level) (s : State) :
    (capture d s).port = ⟨s.port.calls ++ [.readData d], s.port.result⟩ := rfl
@[simp] theorem capture_routineActive (d : Level) (s : State) :
    (capture d s).routineActive = s.routineActive := rfl
@[simp] theorem capture_trace (d : Level) (s : State) : (capture d s).trace = s.trace := rfl

@[simp] theorem setEnable_tx (v : Level) (s : State) : (setEnable v s).tx = s.tx := rfl
@[simp] theorem setEnable_lines (v : Level) (s : State) :
    (setEnable v s).lines = ⟨v, s.lines.clock, s.lines.data⟩ := rfl
@[simp] theorem setEnable_timer (v : Level) (s : State) : (setEnable v s).timer = s.timer := rfl
@[simp] theorem setEnable_hookCount (v : Level) (s : State) : (setEnable v s).hookCount = s.hookCount := rfl
@[simp] theorem setEnable_rx (v : Level) (s : State) : (setEnable v s).rx = s.rx := rfl
@[simp] theorem setEnable_inp (v : Level) (s : State) : (setEnable v s).inp = s.inp := rfl
@[simp] theorem setEnable_val (v : Level) (s : State) : (setEnable v s).val = s.val := rfl
@[simp] theorem setEnable_scan (v : Level) (s : State) : (setEnable v s).scan = s.scan := rfl
@[simp] theorem setEnable_config (v : Level) (s : State) : (setEnable v s).config = s.config := rfl
@[simp] theorem setEnable_port (v : Level) (s : State) :
    (setEnable v s).port = ⟨s.port.calls ++ [.setLine .enable v], s.port.result⟩ := rfl
@[simp] theorem setEnable_routineActive (v : Level) (s : State) :
    (setEnable v s).routineActive = s.routineActive := rfl
@[simp] theorem setEnable_trace (v : Level) (s : State) : (setEnable v s).trace = s.trace := rfl

@[simp] theorem setData_tx (v : Level) (s : State) : (setData v s).tx = s.tx := rfl
@[simp] theorem setData_lines (v : Level) (s : State) :
    (setData v s).lines = ⟨s.lines.enable, s.lines.clock, v⟩ := rfl
@[simp] theorem setData_timer (v : Level) (s : State) : (setData v s).timer = s.timer := rfl
@[simp] theorem setData_hookCount (v : Level) (s : State) : (setData v s).hookCount = s.hookCount := rfl
@[simp] theorem setData_rx (v : Level) (s : State) : (setData v s).rx = s.rx := rfl
@[simp] theorem setData_inp (v : Level) (s : State) : (setData v s).inp = s.inp := rfl
@[simp] theorem setData_val (v : Level) (s : State) : (setData v s).val = s.val := rfl
@[simp] theorem setData_scan (v : Level) (s : State) : (setData v s).scan = s.scan := rfl
@[simp] theorem setData_config (v : Level) (s : State) : (setData v s).config = s.config := rfl
@[simp] theorem setData_port (v : Level) (s : State) :
    (setData v s).port = ⟨s.port.calls ++ [.setLine .data v], s.port.result⟩ := rfl
@[simp] theorem setData_routineActive (v : Level) (s : State) :
    (setData v s).routineActive = s.routineActive := rfl
@[simp] theorem setData_trace (v : Level) (s : State) : (setData v s).trace = s.trace := rfl

@[simp] theorem driveEdge_tx (d : Level) (s : State) : (driveEdge d s).tx = s.tx := rfl
@[simp] theorem driveEdge_lines (d : Level) (s : State) : (driveEdge d s).lines = s.lines := rfl
@[simp] theorem driveEdge_timer (d : Level) (s : State) : (driveEdge d s).timer = s.timer := rfl
@[simp] theorem driveEdge_hookCount (d : Level) (s : State) : (driveEdge d s).hookCount = s.hookCount := rfl
@[simp] theorem driveEdge_rx (d : Level) (s : State) : (driveEdge d s).rx = s.rx := rfl
@[simp] theorem driveEdge_inp (d : Level) (s : State) :
    (driveEdge d s).inp = ⟨levelAfterEdge s.config.rxEdge, d⟩ := rfl
@[simp] theorem driveEdge_val (d : Level) (s : State) : (driveEdge d s).val = s.val := rfl
@[simp] theorem driveEdge_scan (d : Level) (s : State) : (driveEdge d s).scan = s.scan := rfl
@[simp] theorem driveEdge_config (d : Level) (s : State) : (driveEdge d s).config = s.config := rfl
@[simp] theorem driveEdge_port (d : Level) (s : State) : (driveEdge d s).port = s.port := rfl
@[simp] theorem driveEdge_routineActive (d : Level) (s : State) :
    (driveEdge d s).routineActive = s.routineActive := rfl
@[simp] theorem driveEdge_trace (d : Level) (s : State) : (driveEdge d s).trace = s.trace := rfl

@[simp] theorem commit_tx (m : Message) (s : State) : (commit m s).tx = s.tx := rfl
@[simp] theorem commit_lines (m : Message) (s : State) : (commit m s).lines = s.lines := rfl
@[simp] theorem commit_timer (m : Message) (s : State) : (commit m s).timer = s.timer := rfl
@[simp] theorem commit_hookCount (m : Message) (s : State) : (commit m s).hookCount = s.hookCount := rfl
@[simp] theorem commit_rx (m : Message) (s : State) : (commit m s).rx = s.rx := rfl
@[simp] theorem commit_inp (m : Message) (s : State) : (commit m s).inp = s.inp := rfl
@[simp] theorem commit_val (m : Message) (s : State) :
    (commit m s).val = ⟨m, true, if isChange m s then m else s.val.lastChange,
      if isChange m s then s.config.changePrime else s.val.changeCounter⟩ := rfl
@[simp] theorem commit_scan (m : Message) (s : State) : (commit m s).scan = s.scan := rfl
@[simp] theorem commit_config (m : Message) (s : State) : (commit m s).config = s.config := rfl
@[simp] theorem commit_port (m : Message) (s : State) : (commit m s).port = s.port := rfl
@[simp] theorem commit_routineActive (m : Message) (s : State) :
    (commit m s).routineActive = s.routineActive := rfl
@[simp] theorem commit_trace (m : Message) (s : State) : (commit m s).trace = s.trace := rfl

/-- Writing CLOCK in one record: the line, the capture that `LOOPBACK` may cause, and the calls. -/
theorem setClock_eq (v : Level) (s : State) :
    setClock v s =
      { s with
        lines.clock := v
        rx := rxAfterClock v s.lines.data s
        port.calls := s.port.calls ++ clockCalls v s.lines.data s } := by
  cases hl : s.config.loopback with
  | false =>
    have hsame : ∀ v, isRxEdge s.config.rxEdge v v = false := by
      intro v; cases s.config.rxEdge <;> cases v <;> rfl
    simp [setClock, rxAfterClock, clockCalls, loopsBack, inClock, hl, hsame, record]
  | true =>
    cases h : isRxEdge s.config.rxEdge s.lines.clock v <;>
      simp [setClock, rxAfterClock, clockCalls, loopsBack, inClock, inData, hl, h, record, capture, ringWrite]

@[simp] theorem setClock_lines (v : Level) (s : State) :
    (setClock v s).lines = ⟨s.lines.enable, v, s.lines.data⟩ := by
  rw [setClock_eq]

@[simp] theorem setClock_rx (v : Level) (s : State) : (setClock v s).rx = rxAfterClock v s.lines.data s := by
  rw [setClock_eq]

@[simp] theorem setClock_port (v : Level) (s : State) :
    (setClock v s).port = ⟨s.port.calls ++ clockCalls v s.lines.data s, s.port.result⟩ := by
  rw [setClock_eq]

@[simp] theorem setClock_tx (v : Level) (s : State) : (setClock v s).tx = s.tx := by
  rw [setClock_eq]

@[simp] theorem setClock_timer (v : Level) (s : State) : (setClock v s).timer = s.timer := by
  rw [setClock_eq]

@[simp] theorem setClock_hookCount (v : Level) (s : State) : (setClock v s).hookCount = s.hookCount := by
  rw [setClock_eq]

@[simp] theorem setClock_inp (v : Level) (s : State) : (setClock v s).inp = s.inp := by
  rw [setClock_eq]

@[simp] theorem setClock_val (v : Level) (s : State) : (setClock v s).val = s.val := by
  rw [setClock_eq]

@[simp] theorem setClock_scan (v : Level) (s : State) : (setClock v s).scan = s.scan := by
  rw [setClock_eq]

@[simp] theorem setClock_config (v : Level) (s : State) : (setClock v s).config = s.config := by
  rw [setClock_eq]

@[simp] theorem setClock_routineActive (v : Level) (s : State) : (setClock v s).routineActive = s.routineActive := by
  rw [setClock_eq]

@[simp] theorem setClock_trace (v : Level) (s : State) : (setClock v s).trace = s.trace := by
  rw [setClock_eq]

@[simp] theorem tick_timer (s : State) :
    (tick s).timer = ⟨s.timer.armed, if s.timer.armed then s.timer.remaining - 1 else s.timer.remaining⟩ := by
  unfold tick
  cases h : s.timer with
  | mk armed remaining => cases armed <;> simp [h]

/-- A tick is seen in the timer alone. -/
theorem tick_eq (s : State) : tick s = { s with timer := (tick s).timer } := by
  unfold tick
  split <;> rfl

end Sys2Proof.Machine
end

