-- ==== Sys2Proof/Laws/Ops.lean ====
section
/-! SUPPORT. One lemma per shared operation that says once what it can do: `andThen`, `arm`, a turn of the TX
routine, the routine, the steps of a scan. -/

namespace Sys2Proof.Machine

@[simp] theorem andThen_next (s : State) (f : State → Answer) : andThen (.next s) f = f s := rfl

@[simp] theorem andThen_refused (r : Refusal) (f : State → Answer) : andThen (.refused r) f = .refused r := rfl

/-- A composition answers a next state exactly when both parts do. -/
theorem andThen_eq_next {a : Answer} {f : State → Answer} {t : State} :
    andThen a f = .next t ↔ ∃ u, a = .next u ∧ f u = .next t := by
  cases a with
  | next u => simp
  | fault r => cases r
  | refused r => simp

/-- There is no fault (R152). -/
theorem ne_fault (r : Fault) (P : Prop) : P := nomatch r

/-- What a legal build says (R7, R28). -/
theorem wf_iff (c : Config) :
    c.wf = true ↔
      (1 ≤ c.t40 ∧ c.t40 ≤ c.timerMax) ∧ (1 ≤ c.t60 ∧ c.t60 ≤ c.timerMax) ∧
      (1 ≤ c.t65 ∧ c.t65 ≤ c.timerMax) ∧ (1 ≤ c.t100 ∧ c.t100 ≤ c.timerMax) ∧ c.tEndHold ≤ c.timerMax := by
  simp [Config.wf, Config.tickWf, and_assoc]

/-- `arm(t)` from a disarmed timer with `t` in range (R161). -/
theorem arm_eq {t : Nat} {s : State} (harmed : s.timer.armed = false) (hpos : 0 < t)
    (hmax : t ≤ s.config.timerMax) :
    arm t s = .next { s with timer := ⟨true, t⟩, port.calls := s.port.calls ++ [.armTimer t] } := by
  have : ¬ (t = 0 ∨ s.config.timerMax < t) := by omega
  simp [arm, harmed, this, record]

/-- Everything `arm` can do when it answers a next state. -/
theorem arm_next {t : Nat} {s u : State} (h : arm t s = .next u) :
    s.timer.armed = false ∧ 0 < t ∧ t ≤ s.config.timerMax ∧
      u = { s with timer := ⟨true, t⟩, port.calls := s.port.calls ++ [.armTimer t] } := by
  unfold arm at h
  cases harmed : s.timer.armed with
  | true => simp [harmed] at h
  | false =>
    simp only [harmed, Bool.false_eq_true, if_false] at h
    split at h
    · cases h
    · cases h
      exact ⟨rfl, by omega, by omega, rfl⟩

/-- A turn with a delay: the timer is armed and the routine suspends (R84). -/
theorem routineTurn_timed {x : TxState} {e : Evaluation} (hdelay : 0 < e.delay)
    (harmed : e.after.timer.armed = false) (hmax : e.delay ≤ e.after.config.timerMax) :
    routineTurn x e = .next
      { e.after with
        tx.state := e.next, routineActive := false, timer := ⟨true, e.delay⟩
        port.calls := e.after.port.calls ++ [.armTimer e.delay] } := by
  simp only [routineTurn, hdelay, if_true]
  rw [arm_eq] <;> simp [harmed, hdelay, hmax]

/-- A turn without a delay: the routine goes on, unless the state is its own successor (R84). -/
theorem routineTurn_immediate {x : TxState} {e : Evaluation} (hdelay : e.delay = 0) :
    routineTurn x e = .next { e.after with tx.state := e.next, routineActive := e.next != x } := by
  simp [routineTurn, hdelay]

/-- Everything a turn can do when it answers a next state. -/
theorem routineTurn_next {x : TxState} {e : Evaluation} {u : State} (h : routineTurn x e = .next u) :
    (0 < e.delay ∧ e.after.timer.armed = false ∧ e.delay ≤ e.after.config.timerMax ∧
      u = { e.after with
            tx.state := e.next, routineActive := false, timer := ⟨true, e.delay⟩
            port.calls := e.after.port.calls ++ [.armTimer e.delay] }) ∨
    (e.delay = 0 ∧ u = { e.after with tx.state := e.next, routineActive := e.next != x }) := by
  rcases Nat.eq_zero_or_pos e.delay with h0 | h0
  · rw [routineTurn_immediate h0] at h
    cases h
    exact .inr ⟨h0, rfl⟩
  · simp only [routineTurn, h0, if_true] at h
    obtain ⟨h1, h2, h3, rfl⟩ := arm_next h
    exact .inl ⟨h2, h1, h3, rfl⟩

/-- What no evaluation touches: the build, the trace, the record, the scan, the input lines, the buffer, the
outcome; and what it leaves of the timer: only REST disarms. -/
theorem evaluate_frame (x : TxState) (s : State) :
    (evaluate x s).after.config = s.config ∧ (evaluate x s).after.trace = s.trace ∧
    (evaluate x s).after.val = s.val ∧ (evaluate x s).after.scan = s.scan ∧ (evaluate x s).after.inp = s.inp ∧
    (evaluate x s).after.tx.buffer = s.tx.buffer ∧ (evaluate x s).after.port.result = s.port.result ∧
    (s.timer.armed = false → (evaluate x s).after.timer = s.timer) ∧
    (x ≠ .rest → (evaluate x s).after.timer = s.timer) := by
  cases x with
  | clk =>
    simp only [evaluate, evalClk]
    split
    · simp
    · split <;> simp
  | rest =>
    simp only [evaluate, evalRest]
    refine ⟨?_, ?_, ?_, ?_, ?_, ?_, ?_, fun h => ?_, fun h => absurd rfl h⟩ <;> simp [setRestLevels]
    simp [← h]
  | start | enHiA | enLoA | enHiB | bit | rgap | renLo | renHi | endSeq | disabled =>
    simp [evaluate, evalStart, evalEnHiA, evalEnLoA, evalEnHiB, evalBit, evalRgap, evalRenLo, evalRenHi, evalEnd,
      evalDisabled, setRestLevels]

/-- Every delay of a legal build is one `arm` takes, or 0. -/
theorem evaluate_delay {x : TxState} {s : State} (h : s.config.wf = true) :
    (evaluate x s).delay ≤ s.config.timerMax := by
  have hw := (wf_iff _).1 h
  cases x with
  | clk =>
    simp only [evaluate, evalClk]
    split
    · simp only; omega
    · split <;> simp only <;> omega
  | rest | start | enHiA | enLoA | enHiB | bit | rgap | renLo | renHi | endSeq | disabled =>
    simp only [evaluate, evalRest, evalStart, evalEnHiA, evalEnLoA, evalEnHiB, evalBit, evalRgap, evalRenLo,
      evalRenHi, evalEnd, evalDisabled]
    omega

/-- The micro-instruction of a TX state is one turn of the routine at it. -/
theorem exec_instr (x : TxState) (s : State) : exec x.instr s = routineTurn x (evaluate x s) := by
  cases x <;> rfl

/-- The routine, when its first evaluation has a delay: one turn. -/
theorem txRoutine_timed {s : State} (hdelay : 0 < (evaluate s.tx.state s).delay) :
    txRoutine s = routineTurn s.tx.state (evaluate s.tx.state s) := by
  unfold txRoutine txRoutineFuel
  cases h : routineTurn s.tx.state (evaluate s.tx.state s) with
  | next t =>
    rcases routineTurn_next h with ⟨_, _, _, rfl⟩ | ⟨h0, _⟩
    · simp
    · omega
  | fault r => cases r
  | refused r => rfl

/-- The routine, when its first evaluation has none: the state it leads to, then the rest of the routine. -/
theorem txRoutineFuel_immediate {n : Nat} {s : State} (hdelay : (evaluate s.tx.state s).delay = 0)
    (hnext : (evaluate s.tx.state s).next ≠ s.tx.state) :
    txRoutineFuel (n + 1) s = txRoutineFuel n
      { (evaluate s.tx.state s).after with tx.state := (evaluate s.tx.state s).next, routineActive := true } := by
  have hb : ((evaluate s.tx.state s).next != s.tx.state) = true := by simp [hnext]
  simp [txRoutineFuel, routineTurn_immediate hdelay, hb]

/-- What every turn keeps, the routine keeps. -/
theorem txRoutineFuel_keeps {P : State → Prop}
    (hturn : ∀ s u, P s → routineTurn s.tx.state (evaluate s.tx.state s) = .next u → P u) :
    ∀ n s t, P s → txRoutineFuel n s = .next t → P t := by
  intro n
  induction n with
  | zero => intro s t _ h; cases h
  | succ n ih =>
    intro s t hs h
    obtain ⟨u, hu, hrest⟩ := andThen_eq_next.1 h
    have hPu := hturn s u hs hu
    cases hact : u.routineActive with
    | true => exact ih u t hPu (by simpa [hact] using hrest)
    | false =>
      have : u = t := by simpa [hact] using hrest
      exact this ▸ hPu

/-- What no turn touches: the build, the trace, the record, the scan, the input lines, the buffer, the outcome. -/
theorem routineTurn_frame {x : TxState} {s u : State} (h : routineTurn x (evaluate x s) = .next u) :
    u.config = s.config ∧ u.trace = s.trace ∧ u.val = s.val ∧ u.scan = s.scan ∧ u.inp = s.inp ∧
      u.tx.buffer = s.tx.buffer ∧ u.port.result = s.port.result := by
  obtain ⟨h1, h2, h3, h4, h5, h6, h7, _⟩ := evaluate_frame x s
  rcases routineTurn_next h with ⟨_, _, _, rfl⟩ | ⟨_, rfl⟩ <;> exact ⟨h1, h2, h3, h4, h5, h6, h7⟩

/-- What the routine never touches. -/
theorem txRoutine_frame {s t : State} (h : txRoutine s = .next t) :
    t.config = s.config ∧ t.trace = s.trace ∧ t.val = s.val ∧ t.scan = s.scan ∧ t.inp = s.inp ∧
      t.tx.buffer = s.tx.buffer ∧ t.port.result = s.port.result := by
  refine txRoutineFuel_keeps
    (P := fun u => u.config = s.config ∧ u.trace = s.trace ∧ u.val = s.val ∧ u.scan = s.scan ∧
      u.inp = s.inp ∧ u.tx.buffer = s.tx.buffer ∧ u.port.result = s.port.result)
    ?_ 3 s t ⟨rfl, rfl, rfl, rfl, rfl, rfl, rfl⟩ h
  rintro v u ⟨h1, h2, h3, h4, h5, h6, h7⟩ hu
  obtain ⟨k1, k2, k3, k4, k5, k6, k7⟩ := routineTurn_frame hu
  exact ⟨k1.trans h1, k2.trans h2, k3.trans h3, k4.trans h4, k5.trans h5, k6.trans h6, k7.trans h7⟩

/-- Without `LOOPBACK` a CLOCK write is no edge. -/
theorem rxAfterClock_noLoop {v d : Level} {s : State} (h : s.config.loopback = false) :
    rxAfterClock v d s = s.rx := by
  simp [rxAfterClock, loopsBack, h]

/-- Writing the level CLOCK already has is no edge. -/
theorem loopsBack_same {v : Level} {s : State} (h : s.lines.clock = v) : loopsBack v s = false := by
  simp only [loopsBack, isRxEdge, h]
  cases s.config.rxEdge <;> cases v <;> simp

theorem rxAfterClock_same {v d : Level} {s : State} (h : s.lines.clock = v) : rxAfterClock v d s = s.rx := by
  simp [rxAfterClock, loopsBack_same h]

theorem clockCalls_same {v d : Level} {s : State} (h : s.lines.clock = v) :
    clockCalls v d s = [.setLine .clock v] := by
  simp [clockCalls, loopsBack_same h]

/-- What a CLOCK write does to RX depends on the build, the CLOCK line and RX alone. -/
theorem rxAfterClock_congr {v d : Level} {s s' : State} (hc : s.config = s'.config)
    (hl : s.lines.clock = s'.lines.clock) (hr : s.rx = s'.rx) : rxAfterClock v d s = rxAfterClock v d s' := by
  simp [rxAfterClock, loopsBack, hc, hl, hr]

theorem clockCalls_congr {v d : Level} {s s' : State} (hc : s.config = s'.config)
    (hl : s.lines.clock = s'.lines.clock) : clockCalls v d s = clockCalls v d s' := by
  simp [clockCalls, loopsBack, hc, hl]

/-- The rest levels in one record. -/
theorem setRestLevels_eq (s : State) :
    setRestLevels s =
      { s with
        lines := restLines
        rx := rxAfterClock .high s.lines.data s
        port.calls := s.port.calls ++ .setLine .enable .low ::
          (clockCalls .high s.lines.data s ++ [.setLine .data .high]) } := by
  have hrx : rxAfterClock .high s.lines.data (setEnable .low s) = rxAfterClock .high s.lines.data s :=
    rxAfterClock_congr rfl rfl rfl
  have hcalls : clockCalls .high s.lines.data (setEnable .low s) = clockCalls .high s.lines.data s :=
    clockCalls_congr rfl rfl
  simp [setRestLevels, setClock_eq, hrx, hcalls, setData, record, restLines]

/-- The three rows of CLK (R87). -/
theorem evalClk_mid {s : State} (h : s.tx.bitCursor.val < 55) :
    evalClk s =
      ⟨{ setClock .high s with tx.bitCursor := ⟨s.tx.bitCursor.val + 1, by omega⟩ }, .bit, s.config.t65⟩ := by
  simp [evalClk, h]

theorem evalClk_firstPassEnd {s : State} (h : s.tx.bitCursor.val = 55) (hr : s.tx.repeatFlag = false) :
    evalClk s = ⟨{ setClock .high s with tx.bitCursor := 0, tx.repeatFlag := true }, .rgap, 0⟩ := by
  simp [evalClk, h, hr]

theorem evalClk_secondPassEnd {s : State} (h : s.tx.bitCursor.val = 55) (hr : s.tx.repeatFlag = true) :
    evalClk s = ⟨{ setClock .high s with tx.bitCursor := 0 }, .endSeq, s.config.tEndHold⟩ := by
  simp [evalClk, h, hr]

/-- Everything a comparison can do when it answers a next state (R132). -/
theorem scanCompare_next {s t : State} (h : scanCompare s = .next t) :
    s.scan.active = true ∧ ∃ hi : s.scan.i.val < 56,
      (olderBit s s.scan.i.val ≠ newerBit s s.scan.i.val ∧
        t = { s with scan.active := false, port.result := some .noMessage }) ∨
      (olderBit s s.scan.i.val = newerBit s s.scan.i.val ∧
        t = { s with
              scan.snap := s.scan.snap.set s.scan.i.val (newerBit s s.scan.i.val) hi
              scan.seen0 := nextSeen0 s.scan (newerBit s s.scan.i.val)
              scan.ok01 := nextOk01 s.scan (newerBit s s.scan.i.val)
              scan.i := ⟨s.scan.i.val + 1, by omega⟩ }) := by
  unfold scanCompare at h
  split at h
  · rename_i hadm
    simp only at h
    split at h
    · rename_i hne
      cases h
      exact ⟨hadm.1, hadm.2, .inl ⟨hne, rfl⟩⟩
    · rename_i heq
      cases h
      exact ⟨hadm.1, hadm.2, .inr ⟨by simpa using heq, rfl⟩⟩
  · cases h

/-- Everything the end of a scan can do when it answers a next state (R133). -/
theorem scanEnd_next {s t : State} (h : scanEnd s = .next t) :
    s.scan.active = true ∧ s.scan.i.val = 56 ∧
      ((scanIsClean s = false ∧ t = { s with scan.active := false, port.result := some .noMessage }) ∨
       (scanIsClean s = true ∧
          t = returning (.message (pack s.scan.snap)) (commit (pack s.scan.snap) { s with scan.active := false }))) := by
  unfold scanEnd at h
  split at h
  · rename_i hadm
    split at h
    · rename_i hc
      cases h
      exact ⟨hadm.1, hadm.2, .inr ⟨hc, rfl⟩⟩
    · rename_i hc
      cases h
      exact ⟨hadm.1, hadm.2, .inl ⟨by simpa using hc, rfl⟩⟩
  · cases h

/-- Everything the begin of a scan can do when it answers a next state (R131). -/
theorem scanBegin_next {s t : State} (h : scanBegin s = .next t) :
    s.scan.active = false ∧
      t = { s with rx.dirty := false, scan := ⟨true, s.rx.cursor, 0, false, false, s.scan.snap⟩ } := by
  unfold scanBegin at h
  cases hactive : s.scan.active with
  | true => simp [hactive] at h
  | false =>
    simp only [hactive, Bool.false_eq_true, if_false] at h
    cases h
    exact ⟨rfl, rfl⟩

end Sys2Proof.Machine
end

