-- ==== Sys2Proof/Laws/Bits.lean ====
section
/-! SUPPORT. The bits of messages, packed octets and TX state codes: one lemma per shared bit operation. -/

namespace Sys2Proof.Machine

@[simp] theorem bitOf_lvl (b : Bool) : bitOf (lvl b) = b := by cases b <;> rfl

/-- Bit `7 - j` of an octet of bits is its `j`-th bit. -/
theorem octetOfBits_bit : ∀ (b7 b6 b5 b4 b3 b2 b1 b0 : Bool) (j : Fin 8),
    (octetOfBits b7 b6 b5 b4 b3 b2 b1 b0).getLsbD (7 - j.val) = #v[b7, b6, b5, b4, b3, b2, b1, b0][j] := by
  decide

/-- Bit `7 - r` of packed octet `q` is bit `8q + r` of the sequence (R63). -/
theorem packOctet_bit (v : Vector Bool 56) (q : Fin 7) (r : Fin 8) :
    (packOctet v q).getLsbD (7 - r.val) = v[8 * q.val + r.val]'(by omega) := by
  rw [packOctet, octetOfBits_bit]
  match r with
  | 0 | 1 | 2 | 3 | 4 | 5 | 6 | 7 => rfl

theorem pack_getElem (v : Vector Bool 56) (k : Fin 7) : (pack v)[k] = packOctet v k := by
  match k with
  | 0 | 1 | 2 | 3 | 4 | 5 | 6 => rfl

/-- Message bit `8q + r` is bit `7 - r` of octet `q` (R60). -/
theorem mbit_at (m : Message) (q : Fin 7) (r : Fin 8) :
    mbit m ⟨8 * q.val + r.val, by omega⟩ = m[q].getLsbD (7 - r.val) := by
  unfold mbit
  have h1 : (8 * q.val + r.val) / 8 = q.val := by omega
  have h2 : (8 * q.val + r.val) % 8 = r.val := by omega
  simp only [h1, h2, Fin.getElem_fin]

/-- Every message bit index is an octet and a place in it. -/
theorem exists_octet_place (i : Fin 56) : ∃ (q : Fin 7) (r : Fin 8), i = ⟨8 * q.val + r.val, by omega⟩ :=
  ⟨⟨i.val / 8, by omega⟩, ⟨i.val % 8, by omega⟩, by ext; simp; omega⟩

/-- Messages with the same message bits are the same message. -/
theorem message_ext_bits {m n : Message} (h : ∀ i, mbit m i = mbit n i) : m = n := by
  ext k hk j hj
  have hbit := h ⟨8 * k + (7 - j), by omega⟩
  have em := mbit_at m ⟨k, hk⟩ ⟨7 - j, by omega⟩
  have en := mbit_at n ⟨k, hk⟩ ⟨7 - j, by omega⟩
  have hj' : 7 - (7 - j) = j := by omega
  simp only at em en
  rw [em, en] at hbit
  simp only [hj', Fin.getElem_fin] at hbit
  simpa [BitVec.getLsbD_eq_getElem hj] using hbit

/-- A message is its seven octets. -/
theorem message_eta (m : Message) : #v[m[0], m[1], m[2], m[3], m[4], m[5], m[6]] = m := by
  ext k hk
  match k, hk with
  | 0, _ | 1, _ | 2, _ | 3, _ | 4, _ | 5, _ | 6, _ => rfl

/-- The message bits, as a list over the indices. -/
theorem map_mbit_finRange (m : Message) : (List.finRange 56).map (mbit m) = (messageBits m).toList := by
  simp [messageBits, ← List.ofFn_eq_map, Vector.toList_ofFn]

/-- A state code and its state (R64). -/
@[simp] theorem ofCode_code (x : TxState) : TxState.ofCode x.code = some x := by cases x <;> rfl

/-- Exactly the codes 12..15 are reserved (R69). -/
theorem ofCode_eq_none_iff : ∀ w : BitVec 4, TxState.ofCode w = none ↔ 12 ≤ w.toNat := by decide

theorem code_of_ofCode {w : BitVec 4} {x : TxState} (h : TxState.ofCode w = some x) : x.code = w := by
  have hall : ∀ w : BitVec 4, ∀ x ∈ TxState.ofCode w, x.code = w := by decide
  exact hall w x h

/-- A trace holds no TX state (R70). -/
theorem decodeTrace_txState {bs rest : List Octet} {i : Instr} (h : decodeTrace bs = .ok (i, rest)) :
    i.txState = none := by
  cases bs with
  | nil => cases h
  | cons o r =>
    simp only [decodeTrace] at h
    split at h <;> first | (cases h; rfl) | cases h | skip
    unfold decodeSend at h
    split at h <;> cases h
    rfl

end Sys2Proof.Machine
end

