-- ==== Sys2Proof/Laws/PerInstr.lean ====
section
/-! SUPPORT. The family of statements made once per instruction: the shape of its encoding (R64, R70, R71). -/

namespace Sys2Proof.Laws.EncodingShape

/-- An operation's octets start with an opcode that is not reserved, and that octet alone gives their number: 8
for `0x01`, else 1. A TX state's encoding is a code that is not reserved. -/
def Statement (i : Instr) : Prop :=
  i.wf = true ∧
  match encode i with
  | .octets bs => ∃ o rest, bs = o :: rest ∧ o.toNat < 12 ∧ o ≠ 0x03 ∧ bs.length = if o = 0x01 then 8 else 1
  | .txCode w => w.toNat < 12

theorem reset : Statement .reset := ⟨rfl, 0x00, [], rfl, by decide, by decide, rfl⟩
theorem send (m : Message) : Statement (.send m) :=
  ⟨rfl, 0x01, [m[0], m[1], m[2], m[3], m[4], m[5], m[6]], rfl, by decide, by decide, rfl⟩
theorem expire : Statement .expire := ⟨rfl, 0x02, [], rfl, by decide, by decide, rfl⟩
theorem edgeL : Statement .edgeL := ⟨rfl, 0x04, [], rfl, by decide, by decide, rfl⟩
theorem edgeH : Statement .edgeH := ⟨rfl, 0x05, [], rfl, by decide, by decide, rfl⟩
theorem poll : Statement .poll := ⟨rfl, 0x06, [], rfl, by decide, by decide, rfl⟩
theorem pbegin : Statement .pbegin := ⟨rfl, 0x07, [], rfl, by decide, by decide, rfl⟩
theorem pcmp : Statement .pcmp := ⟨rfl, 0x08, [], rfl, by decide, by decide, rfl⟩
theorem pend : Statement .pend := ⟨rfl, 0x09, [], rfl, by decide, by decide, rfl⟩
theorem busoff : Statement .busoff := ⟨rfl, 0x0A, [], rfl, by decide, by decide, rfl⟩
theorem buson : Statement .buson := ⟨rfl, 0x0B, [], rfl, by decide, by decide, rfl⟩
theorem txRest : Statement .txRest := ⟨rfl, show (0 : Nat) < 12 by decide⟩
theorem txStart : Statement .txStart := ⟨rfl, show (1 : Nat) < 12 by decide⟩
theorem txEnHiA : Statement .txEnHiA := ⟨rfl, show (2 : Nat) < 12 by decide⟩
theorem txEnLoA : Statement .txEnLoA := ⟨rfl, show (3 : Nat) < 12 by decide⟩
theorem txEnHiB : Statement .txEnHiB := ⟨rfl, show (4 : Nat) < 12 by decide⟩
theorem txBit : Statement .txBit := ⟨rfl, show (5 : Nat) < 12 by decide⟩
theorem txClk : Statement .txClk := ⟨rfl, show (6 : Nat) < 12 by decide⟩
theorem txRgap : Statement .txRgap := ⟨rfl, show (7 : Nat) < 12 by decide⟩
theorem txRenLo : Statement .txRenLo := ⟨rfl, show (8 : Nat) < 12 by decide⟩
theorem txRenHi : Statement .txRenHi := ⟨rfl, show (9 : Nat) < 12 by decide⟩
theorem txEnd : Statement .txEnd := ⟨rfl, show (10 : Nat) < 12 by decide⟩
theorem txDisabled : Statement .txDisabled := ⟨rfl, show (11 : Nat) < 12 by decide⟩

end Sys2Proof.Laws.EncodingShape
end

