-- ==== Sys2Proof/Laws/Routine.lean ====
section
/-! SUPPORT. The TX routine: when a turn and the routine answer a next state, what they leave alone, and how the
one atomic routine and the sequencer's steps go together. -/

namespace Sys2Proof.Machine

/-- An operation that ends by returning `r`: what it ran before. -/
theorem andThen_returning {a : Answer} {r : Result} {t : State}
    (h : andThen a (fun u => .next (returning r u)) = .next t) : ∃ u, a = .next u ∧ t = returning r u := by
  obtain ⟨u, h1, h2⟩ := andThen_eq_next.1 h
  cases h2
  exact ⟨u, h1, rfl⟩

/-- EXPIRE with the timer armed is the routine from the disarmed state (R81). -/
theorem exec_expire_armed {s : State} (h : s.timer.armed = true) :
    exec .expire s = txRoutine (afterExpiry s) := by
  simp [exec, execExpire, h, afterExpiry]

theorem afterExpiry_eq (s : State) : afterExpiry s = { s with timer := ⟨false, 0⟩, port := ⟨[], none⟩ } := rfl

@[simp] theorem afterExpiry_tx (s : State) : (afterExpiry s).tx = s.tx := rfl
@[simp] theorem afterExpiry_lines (s : State) : (afterExpiry s).lines = s.lines := rfl
@[simp] theorem afterExpiry_timer (s : State) : (afterExpiry s).timer = ⟨false, 0⟩ := rfl
@[simp] theorem afterExpiry_hookCount (s : State) : (afterExpiry s).hookCount = s.hookCount := rfl
@[simp] theorem afterExpiry_rx (s : State) : (afterExpiry s).rx = s.rx := rfl
@[simp] theorem afterExpiry_val (s : State) : (afterExpiry s).val = s.val := rfl
@[simp] theorem afterExpiry_scan (s : State) : (afterExpiry s).scan = s.scan := rfl
@[simp] theorem afterExpiry_config (s : State) : (afterExpiry s).config = s.config := rfl
@[simp] theorem afterExpiry_port (s : State) : (afterExpiry s).port = ⟨[], none⟩ := rfl

/-- In a legal build a turn from a disarmed timer always answers a next state. -/
theorem routineTurn_ok {x : TxState} {s : State} (hw : s.config.wf = true) (ha : s.timer.armed = false) :
    ∃ u, routineTurn x (evaluate x s) = .next u := by
  have hf := evaluate_frame x s
  rcases Nat.eq_zero_or_pos (evaluate x s).delay with h | h
  · exact ⟨_, routineTurn_immediate h⟩
  · exact ⟨_, routineTurn_timed h (by rw [hf.2.2.2.2.2.2.2.1 ha, ha]) (by rw [hf.1]; exact evaluate_delay hw)⟩

/-- The routine ends after a state that has a delay or is its own successor. -/
theorem txRoutineFuel_terminal {n : Nat} {s : State} (hw : s.config.wf = true) (ha : s.timer.armed = false)
    (h : 0 < (evaluate s.tx.state s).delay ∨ (evaluate s.tx.state s).next = s.tx.state) :
    ∃ t, txRoutineFuel (n + 1) s = .next t := by
  obtain ⟨u, hu⟩ := routineTurn_ok (x := s.tx.state) hw ha
  have hstop : u.routineActive = false := by
    rcases routineTurn_next hu with ⟨_, _, _, rfl⟩ | ⟨h0, rfl⟩
    · rfl
    · rcases h with h | h
      · omega
      · simp [h]
  exact ⟨u, by simp [txRoutineFuel, hu, hstop]⟩

/-- A turn does not look at whether the routine is under way. -/
theorem routineTurn_active (x : TxState) (s : State) (b : Bool) :
    routineTurn x (evaluate x { s with routineActive := b }) = routineTurn x (evaluate x s) := by
  have e1 : ∀ v d, rxAfterClock v d { s with routineActive := b } = rxAfterClock v d s :=
    fun _ _ => rxAfterClock_congr rfl rfl rfl
  have e2 : ∀ v d, clockCalls v d { s with routineActive := b } = clockCalls v d s :=
    fun _ _ => clockCalls_congr rfl rfl
  cases x with
  | clk =>
    have hc := s.tx.bitCursor.isLt
    simp only [evaluate]
    rcases Nat.lt_or_ge s.tx.bitCursor.val 55 with h | h
    · rw [evalClk_mid h, evalClk_mid (s := { s with routineActive := b }) h]
      simp [routineTurn, setClock_eq, e1, e2]
    · have h : s.tx.bitCursor.val = 55 := by omega
      cases hr : s.tx.repeatFlag with
      | false =>
        rw [evalClk_firstPassEnd h hr, evalClk_firstPassEnd (s := { s with routineActive := b }) h hr]
        simp [routineTurn, setClock_eq, e1, e2]
      | true =>
        rw [evalClk_secondPassEnd h hr, evalClk_secondPassEnd (s := { s with routineActive := b }) h hr]
        simp [routineTurn, setClock_eq, e1, e2]
  | bit =>
    have e3 : ∀ v d d', rxAfterClock v d (setData d' { s with routineActive := b }) =
        rxAfterClock v d (setData d' s) := fun _ _ _ => rxAfterClock_congr rfl rfl rfl
    have e4 : ∀ v d d', clockCalls v d (setData d' { s with routineActive := b }) =
        clockCalls v d (setData d' s) := fun _ _ _ => clockCalls_congr rfl rfl
    simp [routineTurn, evaluate, evalBit, setClock_eq, bufBit, e3, e4]
  | rest | start | enHiA | enLoA | enHiB | rgap | renLo | renHi | endSeq | disabled =>
    simp [routineTurn, evaluate, evalRest, evalStart, evalEnHiA, evalEnLoA, evalEnHiB, evalRgap, evalRenLo,
      evalRenHi, evalEnd, evalDisabled, setRestLevels_eq, setEnable, setData, record, disarm, emitHook, e1, e2]
    try rfl

/-- Only END's evaluation counts a hook (R88). -/
theorem evaluate_hookCount {x : TxState} (s : State) (h : x ≠ .endSeq) :
    (evaluate x s).after.hookCount = s.hookCount := by
  cases x with
  | endSeq => exact absurd rfl h
  | clk =>
    simp only [evaluate, evalClk]
    split
    · simp
    · split <;> simp
  | rest | start | enHiA | enLoA | enHiB | bit | rgap | renLo | renHi | disabled =>
    simp [evaluate, evalRest, evalStart, evalEnHiA, evalEnLoA, evalEnHiB, evalRgap, evalRenLo, evalRenHi,
      evalDisabled, evalBit, setRestLevels]

theorem routineTurn_hookCount {x : TxState} {s u : State} (hx : x ≠ .endSeq)
    (h : routineTurn x (evaluate x s) = .next u) : u.hookCount = s.hookCount := by
  rcases routineTurn_next h with ⟨_, _, _, rfl⟩ | ⟨_, rfl⟩ <;> exact evaluate_hookCount s hx

/-- Without `LOOPBACK` no turn touches RX (R125). -/
theorem routineTurn_rx {x : TxState} {s u : State} (hl : s.config.loopback = false)
    (h : routineTurn x (evaluate x s) = .next u) : u.rx = s.rx := by
  have hsame : ∀ v d s', s'.config = s.config → rxAfterClock v d s' = s'.rx :=
    fun _ _ _ hc => rxAfterClock_noLoop (by rw [hc, hl])
  have e : (evaluate x s).after.rx = s.rx := by
    cases x with
    | clk =>
      simp only [evaluate, evalClk]
      split
      · simp [hsame]
      · split <;> simp [hsame]
    | bit =>
      simp only [evaluate, evalBit, setClock_rx]
      exact hsame _ _ _ rfl
    | rest | start | enHiA | enLoA | enHiB | rgap | renLo | renHi | endSeq | disabled =>
      simp [evaluate, evalRest, evalStart, evalEnHiA, evalEnLoA, evalEnHiB, evalRgap, evalRenLo, evalRenHi,
        evalEnd, evalDisabled, setRestLevels_eq, hsame]
  rcases routineTurn_next h with ⟨_, _, _, rfl⟩ | ⟨_, rfl⟩ <;> exact e

theorem txRoutine_rx {s t : State} (hl : s.config.loopback = false) (h : txRoutine s = .next t) :
    t.rx = s.rx := by
  refine (txRoutineFuel_keeps (P := fun u => u.config = s.config ∧ u.rx = s.rx) ?_ 3 s t ⟨rfl, rfl⟩ h).2
  rintro v u ⟨h1, h2⟩ hu
  exact ⟨(routineTurn_frame hu).1.trans h1, (routineTurn_rx (by rw [h1, hl]) hu).trans h2⟩

/-- A CLOCK write leaves RX or makes it dirty (R120). -/
theorem rxAfterClock_or (v d : Level) (s : State) :
    rxAfterClock v d s = s.rx ∨ (rxAfterClock v d s).dirty = true := by
  unfold rxAfterClock
  split
  · exact .inr rfl
  · exact .inl rfl

end Sys2Proof.Machine
end

