-- ==== Sys2Proof/Laws/Runs.lean ====
section
/-! SUPPORT. Runs of operations, the records of their calls, and the window of the ring as lists. -/

namespace Sys2Proof.Machine

theorem execAll_append (a b : List Instr) (s : State) :
    execAll (a ++ b) s = andThen (execAll a s) (execAll b) := by
  induction a generalizing s with
  | nil => rfl
  | cons i is ih =>
    simp only [List.cons_append, execAll]
    cases exec i s with
    | next t => simp [ih]
    | fault r => cases r
    | refused r => rfl

/-- The calls of two runs, one after the other. -/
theorem execAllCalls_append {a b : List Instr} {s t : State} {c : List Call}
    (h : execAllCalls a s = some (c, t)) :
    execAllCalls (a ++ b) s = (execAllCalls b t).map fun r => (c ++ r.1, r.2) := by
  induction a generalizing s c with
  | nil => cases h; simp
  | cons i is ih =>
    simp only [execAllCalls, List.cons_append] at h ⊢
    cases he : exec i s with
    | next u =>
      simp only [he, Option.map_eq_some_iff] at h ⊢
      obtain ⟨⟨c', t'⟩, hrun, heq⟩ := h
      cases heq
      rw [ih hrun]
      cases execAllCalls b t' <;> simp
    | fault r => cases r
    | refused r => simp [he] at h

/-- RX's own reads are neither seen by a receiver on the wire nor part of the ticks. -/
theorem receive_filter (cs : List Call) :
    ∀ clock data, receive clock data (cs.filter isTxCall) = receive clock data cs := by
  induction cs with
  | nil => intro _ _; rfl
  | cons a cs ih =>
    intro _ _
    cases a with
    | setLine l v => cases l <;> simp [List.filter_cons, isTxCall, receive, ih]
    | readData v => simp [isTxCall, receive, ih]
    | armTimer t => simp [List.filter_cons, isTxCall, receive, ih]
    | disarmTimer => simp [List.filter_cons, isTxCall, receive, ih]
    | hook => simp [List.filter_cons, isTxCall, receive, ih]

theorem armedTicks_filter (cs : List Call) : armedTicks (cs.filter isTxCall) = armedTicks cs := by
  induction cs with
  | nil => rfl
  | cons a cs ih => cases a <;> simp [List.filter_cons, isTxCall, armedTicks, ih]

theorem armedTicks_append (a b : List Call) : armedTicks (a ++ b) = armedTicks a + armedTicks b := by
  induction a with
  | nil => simp [armedTicks]
  | cons x a ih => cases x <;> simp [armedTicks, ih]; omega

/-- A receiver gets one bit from each bit cell (R61). -/
theorem receive_cells (m : Message) (k : Config) : ∀ (l : List (Fin 56)) (d : Level) (rest : List Call),
    ∃ d', receive .high d ((l.flatMap fun c => bitCalls m k c ++ clkCalls k c) ++ rest) =
      l.map (mbit m) ++ receive .high d' rest := by
  intro l
  induction l with
  | nil => intro d rest; exact ⟨d, rfl⟩
  | cons c l ih =>
    intro d rest
    obtain ⟨d', h⟩ := ih (lvl (mbit m c)) rest
    refine ⟨d', ?_⟩
    simp only [List.flatMap_cons, bitCalls, clkCalls]
    split <;> simp [receive, isRxEdge, ← h] <;> rfl

/-- The 56 indices: the first 55, then 55. -/
theorem finRange_last : List.finRange 56 = (List.finRange 56).take 55 ++ [55] := by decide

theorem finRange_take_succ {n : Nat} (hn : n < 56) :
    (List.finRange 56).take (n + 1) = (List.finRange 56).take n ++ [⟨n, hn⟩] := by
  rw [List.take_add_one]
  simp [hn]

theorem window_length (s : State) : (window s).length = 112 := by simp [window]

theorem window_getElem? (s : State) (i : Nat) :
    (window s)[i]? = if i < 112 then some (windowBit s i) else none := by
  simp only [window, List.getElem?_map]
  split
  · rw [List.getElem?_range (by assumption)]; rfl
  · rw [List.getElem?_eq_none (by simp; omega)]; rfl

/-- The window depends on RX alone. -/
theorem window_congr {s t : State} (h : s.rx = t.rx) : window s = window t := by
  unfold window windowBit ringRead
  rw [h]

/-- A window that moved on by one sample. -/
theorem window_push {s t : State} {b : Bool}
    (h : ∀ i < 112, windowBit t i = if i = 111 then b else windowBit s (i + 1)) :
    window t = (window s).tail ++ [b] := by
  apply List.ext_getElem?
  intro i
  have hl : (window s).tail.length = 111 := by simp [window]
  rw [window_getElem?, List.getElem?_append, hl, List.getElem?_tail, window_getElem?]
  rcases Nat.lt_or_ge i 111 with h1 | h1
  · rw [if_pos (by omega), if_pos h1, if_pos (by omega), h i (by omega), if_neg (by omega)]
  · rw [if_neg (by omega : ¬ i < 111)]
    rcases Nat.eq_or_lt_of_le h1 with h2 | h2
    · subst h2; simp [h]
    · rw [if_neg (by omega), List.getElem?_eq_none (by simp; omega)]

/-- One more sample behind a window that has already moved by `w`. -/
theorem drop_push (l w : List Bool) (b : Bool) (h : l.length = 112) :
    (List.drop w.length (l ++ w)).tail ++ [b] = List.drop (w ++ [b]).length (l ++ (w ++ [b])) := by
  rw [← List.drop_one, List.drop_drop, ← List.append_assoc]
  simp only [List.length_append, List.length_singleton]
  rw [List.drop_append (l₁ := l ++ w)]
  have hz : w.length + 1 - (l ++ w).length = 0 := by simp [h]
  simp only [hz, List.drop_zero]

end Sys2Proof.Machine
end

