-- ==== Sys2Proof/Laws/Validator.lean ====
section
/-! SUPPORT. The validator: what the rest of a poll and a whole poll can do, and the degeneracy flags. -/

namespace Sys2Proof.Machine

/-- Everything the rest of a poll can do when it answers a next state (R72, R136). -/
theorem scanRest_next : ∀ (n : Nat) (s t : State), scanRest n s = .next t →
    t.tx = s.tx ∧ t.lines = s.lines ∧ t.timer = s.timer ∧ t.hookCount = s.hookCount ∧ t.rx = s.rx ∧
    t.inp = s.inp ∧ t.config = s.config ∧ t.trace = s.trace ∧ t.routineActive = s.routineActive ∧
    t.port.calls = s.port.calls ∧ t.scan.active = false ∧
    ((t.port.result = some .noMessage ∧ t.val = s.val) ∨
      ∃ m, t.port.result = some (.message m) ∧ t.val.lastValid = m ∧ t.val.isValid = true) := by
  intro n
  induction n with
  | zero =>
    intro s t h
    obtain ⟨_, _, ⟨_, rfl⟩ | ⟨_, rfl⟩⟩ := scanEnd_next h <;> simp [returning]
  | succ n ih =>
    intro s t h
    obtain ⟨u, hu, hrest⟩ := andThen_eq_next.1 h
    obtain ⟨_, _, ⟨_, rfl⟩ | ⟨_, rfl⟩⟩ := scanCompare_next hu
    · simp only [Bool.false_eq_true, if_false] at hrest
      cases hrest
      simp
    · rename_i hact _ _
      simp only [hact, if_true] at hrest
      simpa using ih _ _ hrest

/-- Everything a poll can do when it answers a next state. -/
theorem exec_poll_next {s t : State} (h : exec .poll s = .next t) :
    s.scan.active = false ∧ t.tx = s.tx ∧ t.lines = s.lines ∧ t.timer = s.timer ∧
    t.hookCount = s.hookCount ∧ t.rx = { s.rx with dirty := false } ∧ t.inp = s.inp ∧ t.config = s.config ∧
    t.trace = s.trace ∧ t.routineActive = s.routineActive ∧ t.port.calls = [] ∧ t.scan.active = false ∧
    ((t.port.result = some .noMessage ∧ t.val = s.val) ∨
      ∃ m, t.port.result = some (.message m) ∧ t.val.lastValid = m ∧ t.val.isValid = true) := by
  obtain ⟨u, hu, hrest⟩ := andThen_eq_next.1 h
  obtain ⟨h1, rfl⟩ := scanBegin_next hu
  have := scanRest_next _ _ _ hrest
  simpa [show s.scan.active = false from h1] using this

/-- One pair more: the flags go on saying what they say of the bits compared so far (R132, R134). -/
theorem flags_step {n : Nat} (hn : n < 56) {v v' : Vector Bool 56} {b : Bool} (hv : v' = v.set n b)
    {sc : Scan} (hs : sc.seen0 = true ↔ ∃ j : Fin 56, j.val < n ∧ v[j] = false)
    (ho : sc.ok01 = true ↔ ∃ j k : Fin 56, j < k ∧ k.val < n ∧ v[j] = false ∧ v[k] = true) :
    (nextSeen0 sc b = true ↔ ∃ j : Fin 56, j.val < n + 1 ∧ v'[j] = false) ∧
    (nextOk01 sc b = true ↔ ∃ j k : Fin 56, j < k ∧ k.val < n + 1 ∧ v'[j] = false ∧ v'[k] = true) := by
  have hne : ∀ j : Fin 56, j.val ≠ n → v'[j] = v[j] := by
    intro j hj
    subst hv
    simp only [Fin.getElem_fin]
    rw [Vector.getElem_set]
    simp [Ne.symm hj]
  have hself : v'[(⟨n, hn⟩ : Fin 56)] = b := by subst hv; simp
  constructor
  · have hcase : nextSeen0 sc b = true ↔ b = false ∨ sc.seen0 = true := by simp [nextSeen0]
    rw [hcase, hs]
    constructor
    · rintro (h | ⟨j, h1, h2⟩)
      · exact ⟨⟨n, hn⟩, by simp, by rw [hself]; exact h⟩
      · exact ⟨j, by omega, by rw [hne j (by omega)]; exact h2⟩
    · rintro ⟨j, h1, h2⟩
      rcases Nat.lt_or_ge j.val n with h | h
      · exact .inr ⟨j, h, by rw [← hne j (by omega)]; exact h2⟩
      · have hj : j = ⟨n, hn⟩ := by ext; simp; omega
        rw [hj, hself] at h2
        exact .inl h2
  · have hcase : nextOk01 sc b = true ↔ (b = true ∧ sc.seen0 = true) ∨ sc.ok01 = true := by simp [nextOk01]
    rw [hcase, hs, ho]
    constructor
    · rintro (⟨h, j, h1, h2⟩ | ⟨j, k, h1, h2, h3, h4⟩)
      · exact ⟨j, ⟨n, hn⟩, h1, by simp, by rw [hne j (by omega)]; exact h2, by rw [hself]; exact h⟩
      · exact ⟨j, k, h1, by omega, by rw [hne j (by omega)]; exact h3, by rw [hne k (by omega)]; exact h4⟩
    · rintro ⟨j, k, h1, h2, h3, h4⟩
      have hjk : j.val < k.val := h1
      rw [hne j (by omega)] at h3
      rcases Nat.lt_or_ge k.val n with h | h
      · exact .inr ⟨j, k, h1, h, h3, by rw [← hne k (by omega)]; exact h4⟩
      · have hk : k = ⟨n, hn⟩ := by ext; simp; omega
        rw [hk, hself] at h4
        exact .inl ⟨h4, j, by omega, h3⟩

end Sys2Proof.Machine
end

