-- ==== Sys2Proof/Tests/Slice0.lean ====
section
/-! SUPPORT. Tests: the written words, ill-formed builds, small steps with expected results from
95_test_vectors.md, and for every statement with hypotheses a witness that meets them. -/

namespace Sys2Proof.Tests

open Machine

/-! ### Helpers -/

/-- The messages `A` and `B` of 95_test_vectors.md. -/
def msgA : Message := #v[0xA5, 0, 0, 0, 0, 0, 1]
def msgB : Message := #v[0x12, 0x34, 0x56, 0x78, 0x9A, 0xBC, 0xDE]

/-- The build of the vectors: build A with `CHANGE_PRIME = 0x10`. -/
def buildV : Config := { Config.buildA with changePrime := 0x10 }

/-- After RESET in the build `c`. -/
def afterReset (c : Config) : State := State.resetOf c restLines ⟨.high, .low⟩ []

def base : State := afterReset buildV

/-- Mid-session: buffer `A`, timer armed with 5 ticks left. -/
def mid (x : TxState) (c : Fin 56) (r : Bool) (l : Lines) (k : Config := buildV) : State :=
  { afterReset k with tx := ⟨x, c, r, msgA⟩, lines := l, timer := ⟨true, 5⟩ }

/-- Inside the routine at `x`, disarmed. -/
def inRoutine (x : TxState) (c : Fin 56) (r : Bool) (l : Lines) (k : Config := buildV) : State :=
  { mid x c r l k with timer := ⟨false, 0⟩, routineActive := true }

/-- A ring of the given samples, oldest first, with the cursor at 0. -/
def ringOf (a b : Message) : Vector Bool 112 := messageBits a ++ messageBits b

/-- A scan from cell 0 with `i` pairs of `A` behind it, over a ring `A ++ A`. -/
def inScan (i : Fin 57) (seen0 ok01 dirty : Bool) : State :=
  { base with
    rx := ⟨ringOf msgA msgA, 0, dirty⟩
    scan := ⟨true, 0, i, seen0, ok01, messageBits msgA⟩ }

/-- One field of the next state. -/
def next? {α : Type} (a : Answer) (f : State → α) : Option α :=
  match a with
  | .next s => some (f s)
  | .fault _ => none
  | .refused _ => none

/-- The refusal. -/
def refusal? (a : Answer) : Option Refusal :=
  match a with
  | .next _ => none
  | .fault _ => none
  | .refused r => some r

def levels (e c d : Level) : Lines := ⟨e, c, d⟩

/-! ### The words of the encoding, written out (R64, R70, R71) -/

theorem test_decode_reset : decode (.octets [0b00000000#8]) = .ok .reset := rfl
theorem test_decode_send :
    decode (.octets [0b00000001#8, 0xA5, 0, 0, 0, 0, 0, 0b00000001#8]) = .ok (.send msgA) := rfl
theorem test_decode_expire : decode (.octets [0b00000010#8]) = .ok .expire := rfl
theorem test_decode_edgeL : decode (.octets [0b00000100#8]) = .ok .edgeL := rfl
theorem test_decode_edgeH : decode (.octets [0b00000101#8]) = .ok .edgeH := rfl
theorem test_decode_poll : decode (.octets [0b00000110#8]) = .ok .poll := rfl
theorem test_decode_pbegin : decode (.octets [0b00000111#8]) = .ok .pbegin := rfl
theorem test_decode_pcmp : decode (.octets [0b00001000#8]) = .ok .pcmp := rfl
theorem test_decode_pend : decode (.octets [0b00001001#8]) = .ok .pend := rfl
theorem test_decode_busoff : decode (.octets [0b00001010#8]) = .ok .busoff := rfl
theorem test_decode_buson : decode (.octets [0b00001011#8]) = .ok .buson := rfl
theorem test_decode_txRest : decode (.txCode 0b0000#4) = .ok .txRest := rfl
theorem test_decode_txStart : decode (.txCode 0b0001#4) = .ok .txStart := rfl
theorem test_decode_txEnHiA : decode (.txCode 0b0010#4) = .ok .txEnHiA := rfl
theorem test_decode_txEnLoA : decode (.txCode 0b0011#4) = .ok .txEnLoA := rfl
theorem test_decode_txEnHiB : decode (.txCode 0b0100#4) = .ok .txEnHiB := rfl
theorem test_decode_txBit : decode (.txCode 0b0101#4) = .ok .txBit := rfl
theorem test_decode_txClk : decode (.txCode 0b0110#4) = .ok .txClk := rfl
theorem test_decode_txRgap : decode (.txCode 0b0111#4) = .ok .txRgap := rfl
theorem test_decode_txRenLo : decode (.txCode 0b1000#4) = .ok .txRenLo := rfl
theorem test_decode_txRenHi : decode (.txCode 0b1001#4) = .ok .txRenHi := rfl
theorem test_decode_txEnd : decode (.txCode 0b1010#4) = .ok .txEnd := rfl
theorem test_decode_txDisabled : decode (.txCode 0b1011#4) = .ok .txDisabled := rfl
theorem test_decode_reserved_txCode : decode (.txCode 0b1111#4) = .error (.reservedTxState 0b1111#4) := rfl
theorem test_decode_short_send : decode (.octets [0x01, 1, 2, 3, 4, 5, 6]) = .error (.truncatedSend 6) := rfl
theorem test_decode_trailing : decode (.octets [0x02, 0x02]) = .error (.trailingOctets 1) := rfl
theorem test_decode_empty : decode (.octets []) = .error .emptyTrace := rfl

/-- The trace of program 5, with its encoding as 95_test_vectors.md writes it. -/
theorem test_decode_program5 :
    decodeAll [0x00, 0x0A, 0x01, 1, 2, 3, 4, 5, 6, 7, 0x04, 0x0B, 0x01, 1, 2, 3, 4, 5, 6, 7, 0x0A, 0x02] =
      .ok [.reset, .busoff, .send #v[1, 2, 3, 4, 5, 6, 7], .edgeL, .buson, .send #v[1, 2, 3, 4, 5, 6, 7],
        .busoff, .expire] := rfl

/-- The same numbering as spec/opcode_table.json: octet 0 of SEND is bits 63..56. -/
theorem test_table_send : decodeTableWord 64 0x01A5000000000001 = some (.send msgA) := by decide
theorem test_table_txBit : decodeTableWord 4 5 = some .txBit := by decide

/-- The first step after reset runs the word. -/
theorem test_step_send :
    next? (step (State.reset.withFetchWord 64 0x01A5000000000001)) (fun t => (t.tx.state, t.tx.buffer)) =
      some (.enHiA, msgA) := by decide
theorem test_step_txBit :
    next? (step (State.reset.withFetchWord 4 5)) (fun t => (t.tx.state, t.lines)) =
      some (.clk, levels .low .low .high) := by decide

/-! ### Ill-formed builds (R7, R28) -/

theorem test_wf_build : buildV.wf = true := by decide
theorem test_wf_buildB : Config.buildB.wf = true := by decide
theorem test_illformed_t40_zero : { buildV with t40 := 0 }.wf = false := by decide
theorem test_illformed_t40_large : { buildV with t40 := 231 }.wf = false := by decide
theorem test_illformed_t60_zero : { buildV with t60 := 0 }.wf = false := by decide
theorem test_illformed_t60_large : { buildV with t60 := 231 }.wf = false := by decide
theorem test_illformed_t65_zero : { buildV with t65 := 0 }.wf = false := by decide
theorem test_illformed_t65_large : { buildV with t65 := 231 }.wf = false := by decide
theorem test_illformed_t100_zero : { buildV with t100 := 0 }.wf = false := by decide
theorem test_illformed_t100_large : { buildV with t100 := 231 }.wf = false := by decide
theorem test_illformed_hold_large : { buildV with tEndHold := 231 }.wf = false := by decide
theorem test_wf_hold : { buildV with tEndHold := 230 }.wf = true := by decide

/-! ### Single steps (expected results: 95_test_vectors.md, the section named) -/

/-- 2.12. -/
theorem test_reset_midSession :
    next? (exec .reset (mid .bit 3 true (levels .high .high .low))) (fun t => (t.tx.state, t.tx.bitCursor, t.lines, t.timer)) =
      some (.rest, 0, levels .low .high .high, ⟨false, 0⟩) := by decide

/-- 2.3, rows 1 and 3. -/
theorem test_send_accepted :
    next? (exec (.send msgA) base) (fun t => (t.tx, t.lines, t.timer, t.port.result)) =
      some (⟨.enHiA, 0, false, msgA⟩, levels .low .high .high, ⟨true, 230⟩, some .accepted) := by decide
theorem test_send_busy :
    next? (exec (.send msgB) (mid .clk 17 true (levels .high .low .high))) (fun t => (t.tx, t.timer, t.port.result)) =
      some (⟨.clk, 17, true, msgA⟩, ⟨true, 5⟩, some .busy) := by decide

/-- 2.4, the rows of bit 55 of the second pass and of END. -/
theorem test_expire_end :
    next? (exec .expire (mid .clk 55 true (levels .high .low .low))) (fun t => (t.tx, t.lines, t.timer.armed, t.hookCount)) =
      some (⟨.rest, 0, false, msgA⟩, levels .low .high .high, false, 1) := by decide
theorem test_expire_refused : refusal? (exec .expire base) = some .expireNotArmed := by decide

/-- 2.6, rows 1 and 3. -/
theorem test_edgeL :
    next? (exec .edgeL base) (fun t => (ringRead t 0, t.rx.cursor, t.rx.dirty)) = some (true, 1, true) := by decide
theorem test_edgeL_wrap :
    next? (exec .edgeL { base with rx.cursor := 111 }) (fun t => (ringRead t 111, t.rx.cursor)) =
      some (true, 0) := by decide

/-- 2.6, row 4. -/
theorem test_edgeH :
    next? (exec .edgeH { base with rx.cursor := 5 }) (fun t => (ringRead t 5, t.rx.cursor, t.rx.dirty)) =
      some (false, 6, true) := by decide

/-- 2.10, row 1, and 2.12. -/
theorem test_poll_commits :
    next? (exec .poll { base with rx := ⟨ringOf msgA msgA, 0, true⟩ }) (fun t => (t.port.result, t.val)) =
      some (some (.message msgA), ⟨msgA, true, msgA, 0x10⟩) := by decide
theorem test_poll_reset : next? (exec .poll base) (fun t => t.port.result) = some (some .noMessage) := by decide

/-- 2.7, rows 1 and 2. -/
theorem test_pbegin :
    next? (exec .pbegin { base with rx.cursor := 5, rx.dirty := true }) (fun t => (t.rx.dirty, t.scan.base, t.scan.i, t.scan.active)) =
      some (false, 5, 0, true) := by decide
theorem test_pbegin_refused : refusal? (exec .pbegin (inScan 3 false false false)) = some .scanAlreadyActive := by
  decide

/-- 2.7: a 1 before any 0 does not count; the largest index sum is 222. -/
theorem test_pcmp_one_first :
    next? (exec .pcmp (inScan 0 false false false)) (fun t => (t.scan.i, t.scan.seen0, t.scan.ok01)) =
      some (1, false, false) := by decide
theorem test_pcmp_wrap :
    next? (exec .pcmp { inScan 55 true false false with scan.base := 111, rx.ring := (Vector.replicate 112 false).set 54 true })
      (fun t => (t.port.result, t.scan.active, t.scan.i)) = some (some .noMessage, false, 55) := by decide

/-- 2.7: a torn scan and a clean one. -/
theorem test_pend_torn :
    next? (exec .pend (inScan 56 true true true)) (fun t => (t.port.result, t.val, t.rx.dirty)) =
      some (some .noMessage, base.val, true) := by decide
theorem test_pend_clean :
    next? (exec .pend (inScan 56 true true false)) (fun t => (t.port.result, t.val.changeCounter)) =
      some (some (.message msgA), 0x10) := by decide

/-- 2.5. -/
theorem test_busoff_midSession :
    next? (exec .busoff (mid .enLoA 0 false (levels .high .high .high))) (fun t => (t.port.result, t.tx.state)) =
      some (some .busy, .enLoA) := by decide
theorem test_busoff_rest :
    next? (exec .busoff base) (fun t => (t.port.result, t.tx.state, t.lines)) =
      some (some .accepted, .disabled, levels .low .high .high) := by decide
theorem test_buson_disabled :
    next? (exec .buson { base with tx.state := .disabled, lines := levels .high .low .low }) (fun t => (t.tx.state, t.lines)) =
      some (.rest, levels .low .high .high) := by decide

/-- 2.4, one row per state. -/
theorem test_txRest :
    next? (exec .txRest (inRoutine .rest 0 true (levels .low .high .high))) (fun t => (t.tx.repeatFlag, t.routineActive)) =
      some (false, false) := by decide
theorem test_txStart :
    next? (exec .txStart (inRoutine .start 0 false (levels .low .high .high))) (fun t => (t.tx.state, t.timer)) =
      some (.enHiA, ⟨true, 230⟩) := by decide
theorem test_txEnHiA :
    next? (exec .txEnHiA (inRoutine .enHiA 0 false (levels .low .high .high))) (fun t => (t.tx.state, t.lines, t.timer)) =
      some (.enLoA, levels .high .high .high, ⟨true, 230⟩) := by decide
theorem test_txEnLoA :
    next? (exec .txEnLoA (inRoutine .enLoA 0 false (levels .high .high .high))) (fun t => (t.tx.state, t.lines, t.timer)) =
      some (.enHiB, levels .low .high .high, ⟨true, 230⟩) := by decide
theorem test_txEnHiB :
    next? (exec .txEnHiB (inRoutine .enHiB 0 false (levels .low .high .high))) (fun t => (t.tx.state, t.lines, t.timer)) =
      some (.bit, levels .high .high .high, ⟨true, 138⟩) := by decide
theorem test_txBit_one :
    next? (exec .txBit (inRoutine .bit 55 false (levels .high .high .high))) (fun t => (t.tx.state, t.lines, t.timer)) =
      some (.clk, levels .high .low .low, ⟨true, 92⟩) := by decide
theorem test_txBit_zero :
    next? (exec .txBit (inRoutine .bit 1 false (levels .high .high .low))) (fun t => t.lines) =
      some (levels .high .low .high) := by decide
theorem test_txClk_mid :
    next? (exec .txClk (inRoutine .clk 54 false (levels .high .low .high))) (fun t => (t.tx.state, t.tx.bitCursor, t.timer)) =
      some (.bit, 55, ⟨true, 150⟩) := by decide
theorem test_txClk_hold :
    next? (exec .txClk (inRoutine .clk 55 true (levels .high .low .low) { buildV with tEndHold := 92 }))
      (fun t => (t.tx.state, t.lines, t.timer)) = some (.endSeq, levels .high .high .low, ⟨true, 92⟩) := by decide
theorem test_txRgap :
    next? (exec .txRgap (inRoutine .rgap 0 true (levels .high .high .low))) (fun t => (t.tx.state, t.lines, t.timer)) =
      some (.renLo, levels .high .high .low, ⟨true, 92⟩) := by decide
theorem test_txRenLo :
    next? (exec .txRenLo (inRoutine .renLo 0 true (levels .high .high .low))) (fun t => (t.tx.state, t.lines, t.timer)) =
      some (.renHi, levels .low .high .low, ⟨true, 230⟩) := by decide
theorem test_txRenHi :
    next? (exec .txRenHi (inRoutine .renHi 0 true (levels .low .high .low))) (fun t => (t.tx.state, t.lines, t.timer)) =
      some (.bit, levels .high .high .low, ⟨true, 138⟩) := by decide
theorem test_txEnd :
    next? (exec .txEnd (inRoutine .endSeq 0 true (levels .high .high .low))) (fun t => (t.tx.state, t.lines, t.hookCount)) =
      some (.rest, levels .low .high .high, 1) := by decide
theorem test_txDisabled :
    next? (exec .txDisabled (inRoutine .disabled 0 false (levels .high .low .low))) (fun t => (t.tx.state, t.lines)) =
      some (.disabled, levels .high .low .low) := by decide

/-- R125, R196: the last CLK of a session samples bit 55, not the rest level. -/
theorem test_loopback_last_bit :
    next? (exec .expire (mid .clk 55 true (levels .high .low .low) { buildV with loopback := true }))
      (fun t => (ringRead t 0, t.rx.cursor)) = some (true, 1) := by decide

/-- 2.2 and 2.9. -/
theorem test_bufBit : [0, 3, 7, 8, 27, 55].map (mbit msgB) = [false, true, false, false, true, false] := by decide
theorem test_pack : pack (messageBits msgB) = msgB := by decide

/-- 1.1. -/
theorem test_ticks : tickTable 16000000 = [80, 120, 130, 200] := by decide

/-- R62: the length of a session of build A. -/
theorem test_sessionTicks : sessionTicks Config.buildA = 28092 := by decide

/-- R161, 93 V5. -/
theorem test_arm_armed : refusal? (arm 1 (mid .bit 0 false (levels .high .high .high))) = some .armWhileArmed := by decide
theorem test_arm_zero : refusal? (arm 0 base) = some .armTicksOutOfRange := by decide
theorem test_arm_large : refusal? (arm 231 base) = some .armTicksOutOfRange := by decide

/-- R166. -/
theorem test_ports_after_send :
    next? (exec (.send msgA) base) (fun t => ((portOutputs t).timerArm, (portOutputs t).timerTicks, (portOutputs t).clock)) =
      some (true, 230, true) := by decide

/-! ### Witnesses: for every statement with hypotheses, values that meet them, clause by clause -/

/-- At rest, not right after `State.reset`: the build, the input lines and the ring differ. -/
def atRest (c : Config) : State := { afterReset c with rx := ⟨ringOf msgA msgB, 111, true⟩ }

def loopbackBuild : Config := { buildV with loopback := true, rxEdge := .falling }
def holdBuild : Config := { buildV with tEndHold := 230 }

theorem inv_atRest : Inv (atRest buildV) := by constructor <;> decide
theorem inv_atRest_loopback : Inv (atRest loopbackBuild) := by constructor <;> decide
theorem inv_atRest_hold : Inv (atRest holdBuild) := by constructor <;> decide
theorem inv_mid : Inv (mid .enHiA 0 false restLines) := by constructor <;> decide
theorem inv_mid_clk : Inv (mid .clk 55 true (levels .high .low .low)) := by constructor <;> decide
theorem inv_scanned : Inv (inScan 56 true true false) := by
  constructor
  case ok01Means => exact fun _ => ⟨fun _ => ⟨1, 2, by decide⟩, fun _ => rfl⟩
  all_goals decide
theorem inv_disabled : Inv { base with tx.state := .disabled } := by constructor <;> decide

theorem witness_DecodeEncodeAgree : Instr.wf (.send msgA) = true ∧ Instr.txState (.send msgA) = none :=
  ⟨rfl, rfl⟩
theorem witness_DecodeEncodeAgree_txState : Instr.wf .txEnd = true := rfl

theorem witness_ReservedOpcodes_3 :
    ∃ s : State, s.routineActive = false ∧ s.trace = 0x03 :: [0x00] := ⟨{ base with trace := [0x03, 0x00] }, rfl, rfl⟩
theorem witness_ReservedOpcodes_low :
    0x0C ≤ (0x0C : Octet).toNat ∧ ∃ s : State, s.routineActive = false ∧ s.trace = 0x0C :: [] :=
  ⟨by decide, { base with trace := [0x0C] }, rfl, rfl⟩
theorem witness_ReservedOpcodes_high :
    0x0C ≤ (0xFF : Octet).toNat ∧ ∃ s : State, s.routineActive = false ∧ s.trace = 0xFF :: [] :=
  ⟨by decide, { base with trace := [0xFF] }, rfl, rfl⟩
theorem witness_ReservedOpcodes_send0 :
    ([] : List Octet).length < 7 ∧ ∃ s : State, s.routineActive = false ∧ s.trace = 0x01 :: [] :=
  ⟨by decide, { base with trace := [0x01] }, rfl, rfl⟩
theorem witness_ReservedOpcodes_send6 :
    ([1, 2, 3, 4, 5, 6] : List Octet).length < 7 ∧
      ∃ s : State, s.routineActive = false ∧ s.trace = 0x01 :: [1, 2, 3, 4, 5, 6] :=
  ⟨by decide, { base with trace := [0x01, 1, 2, 3, 4, 5, 6] }, rfl, rfl⟩

theorem witness_SessionWord : sessionOfWord 0b1_110111_1011#11 = some (.disabled, 55, true) := by decide
theorem witness_SessionWord_state : 12 ≤ ((0b0_000000_1100#11).extractLsb' 0 4).toNat := by decide
theorem witness_SessionWord_cursor : 56 ≤ ((0b0_111000_0000#11).extractLsb' 4 6).toNat := by decide

theorem witness_ResetLeavesTheTable_rest : base.config.resetTxState = .rest := rfl
theorem witness_ResetLeavesTheTable_disabled :
    ∃ s : State, s.config.resetTxState = .disabled := ⟨afterReset { buildV with resetTxState := .disabled }, rfl⟩

theorem witness_StepRunsTheNextOperation :
    ∃ s : State, s.routineActive = false ∧ decodeTrace s.trace = .ok (.pcmp, [0x09]) ∧
      scheduleAdmits .pcmp s = true :=
  ⟨{ inScan 0 false false false with trace := [0x08, 0x09] }, rfl, rfl, rfl⟩
theorem witness_StepRunsTheNextOperation_noScan :
    ∃ s : State, s.routineActive = false ∧ decodeTrace s.trace = .ok (.busoff, []) ∧ s.scan.active = false :=
  ⟨{ base with trace := [0x0A] }, rfl, rfl, rfl⟩
theorem witness_StepRunsTheSequencer : (inRoutine .endSeq 0 true restLines).routineActive = true := rfl
theorem witness_IdleStepIsOneTick :
    (mid .enHiA 0 false restLines).routineActive = false ∧ (mid .enHiA 0 false restLines).trace = [] := ⟨rfl, rfl⟩
theorem witness_TaskWaits_send :
    ∃ s : State, s.routineActive = false ∧ s.scan.active = true ∧ decodeTrace s.trace = .ok (.send msgA, []) :=
  ⟨{ inScan 0 false false false with trace := [0x01, 0xA5, 0, 0, 0, 0, 0, 1] }, rfl, rfl, rfl⟩
theorem witness_TaskWaits_busoff :
    ∃ s : State, s.routineActive = false ∧ s.scan.active = true ∧ decodeTrace s.trace = .ok (.busoff, []) :=
  ⟨{ inScan 56 true true false with trace := [0x0A] }, rfl, rfl, rfl⟩
theorem witness_TaskWaits_expire :
    ∃ s : State, s.routineActive = false ∧ s.scan.active = true ∧ decodeTrace s.trace = .ok (.expire, []) :=
  ⟨{ inScan 0 false false false with trace := [0x02] }, rfl, rfl, rfl⟩

theorem witness_SendAtRest : Inv (atRest buildV) ∧ (atRest buildV).tx.state = .rest := ⟨inv_atRest, rfl⟩
theorem witness_BusyChangesNothing_send : (mid .clk 17 true restLines).tx.state ≠ .rest := by decide
theorem witness_BusyChangesNothing_disabled : ({ base with tx.state := .disabled } : State).tx.state ≠ .rest := by
  decide
theorem witness_BusyChangesNothing_busoff :
    (mid .enLoA 0 false restLines).tx.state ≠ .rest ∧ (mid .enLoA 0 false restLines).tx.state ≠ .disabled := by decide
theorem witness_BusyChangesNothing_only :
    ∃ t, exec .busoff (mid .enLoA 0 false restLines) = .next t ∧ t.port.result = some .busy ∧
      Instr.txState .busoff = none := ⟨_, rfl, rfl, rfl⟩

theorem witness_evaluations :
    (inRoutine .bit 55 true restLines).config.wf = true ∧ (inRoutine .bit 55 true restLines).timer.armed = false := by
  decide
theorem witness_Clk_mid : (inRoutine .clk 54 true restLines).tx.bitCursor.val < 55 := by decide
theorem witness_Clk_first :
    (inRoutine .clk 55 false restLines).tx.bitCursor.val = 55 ∧ (inRoutine .clk 55 false restLines).tx.repeatFlag = false := by
  decide
theorem witness_Clk_second :
    (inRoutine .clk 55 true restLines).tx.bitCursor.val = 55 ∧ (inRoutine .clk 55 true restLines).tx.repeatFlag = true ∧
      (inRoutine .clk 55 true restLines).config.tEndHold = 0 := by decide
theorem witness_Clk_second_hold :
    (inRoutine .clk 55 true restLines holdBuild).tx.repeatFlag = true ∧
      0 < (inRoutine .clk 55 true restLines holdBuild).config.tEndHold := by decide

theorem witness_ExpireEvaluates : ∀ x ∈ [TxState.enHiA, .enLoA, .enHiB, .bit, .renLo, .renHi],
    (mid x 0 false restLines).config.wf = true ∧ (mid x 0 false restLines).timer.armed = true ∧
      (mid x 0 false restLines).tx.state = x := by decide
theorem witness_ExpireEvaluates_clk :
    (mid .clk 54 false restLines).tx.state = .clk ∧ (mid .clk 54 false restLines).tx.bitCursor.val < 55 ∧
      (mid .clk 54 false restLines).config.wf = true ∧ (mid .clk 54 false restLines).timer.armed = true := by decide
theorem witness_ExpireRuns_first :
    (mid .clk 55 false restLines).tx.state = .clk ∧ (mid .clk 55 false restLines).tx.bitCursor.val = 55 ∧
      (mid .clk 55 false restLines).tx.repeatFlag = false ∧ (mid .clk 55 false restLines).config.wf = true ∧
      (mid .clk 55 false restLines).timer.armed = true := by decide
theorem witness_ExpireRuns_second :
    (mid .clk 55 true restLines).tx.state = .clk ∧ (mid .clk 55 true restLines).tx.bitCursor.val = 55 ∧
      (mid .clk 55 true restLines).tx.repeatFlag = true ∧ (mid .clk 55 true restLines).config.tEndHold = 0 ∧
      (mid .clk 55 true restLines).config.wf = true ∧ (mid .clk 55 true restLines).timer.armed = true := by decide
theorem witness_ExpireRuns_hold :
    (mid .clk 55 true restLines holdBuild).tx.bitCursor.val = 55 ∧
      (mid .clk 55 true restLines holdBuild).tx.repeatFlag = true ∧
      0 < (mid .clk 55 true restLines holdBuild).config.tEndHold ∧
      (mid .clk 55 true restLines holdBuild).config.wf = true ∧
      (mid .clk 55 true restLines holdBuild).timer.armed = true := by decide
theorem witness_ExpireRuns_end :
    (mid .endSeq 0 true (levels .high .high .low) holdBuild).tx.state = .endSeq ∧
      (mid .endSeq 0 true (levels .high .high .low) holdBuild).lines.clock = .high ∧
      (mid .endSeq 0 true (levels .high .high .low) holdBuild).config.wf = true ∧
      (mid .endSeq 0 true (levels .high .high .low) holdBuild).timer.armed = true := by decide
theorem witness_ExpireNeeds_refused : base.timer.armed = false := rfl
theorem witness_ExpireNeeds_runs :
    Inv (mid .clk 55 true (levels .high .low .low)) ∧ (mid .clk 55 true (levels .high .low .low)).timer.armed = true :=
  ⟨inv_mid_clk, rfl⟩
theorem witness_Busoff_rest : base.tx.state = .rest ∧ base.tx.state ≠ .disabled := by decide
theorem witness_Busoff_disabled : ({ base with tx.state := .disabled } : State).tx.state = .disabled := rfl
theorem witness_DisabledBusStaysSilent :
    ∃ s t : State, Inv s ∧ s.tx.state = .disabled ∧ Instr.txState .edgeL = none ∧ Instr.edgeL ≠ .buson ∧
      Instr.edgeL ≠ .reset ∧ exec .edgeL s = .next t :=
  ⟨_, _, inv_disabled, rfl, rfl, by decide, by decide, rfl⟩
theorem witness_BufferIsWritten : ∃ t, exec (.send msgB) base = .next t := ⟨_, rfl⟩
theorem witness_HookComesFromEnd :
    ∃ s t : State, Inv s ∧ exec .expire s = .next t ∧ t.hookCount ≠ s.hookCount :=
  ⟨_, _, inv_mid_clk, rfl, by decide⟩
theorem witness_RoutineIsTheSequencer :
    (mid .bit 0 true restLines).config.wf = true ∧ (mid .bit 0 true restLines).timer.armed = true ∧
      base.config.wf = true ∧ base.timer.armed = false ∧ base.tx.state = .rest := by decide

theorem witness_RoutineIsTheSequencer_buson :
    ({ base with tx.state := .disabled, lines := levels .high .low .low } : State).tx.state = .disabled := rfl

/-- The hypotheses of the statements about a whole session; with and without an end hold. -/
theorem witness_Session : Inv (atRest buildV) ∧ (atRest buildV).tx.state = .rest := ⟨inv_atRest, rfl⟩
theorem witness_Session_hold :
    Inv (atRest holdBuild) ∧ (atRest holdBuild).tx.state = .rest ∧ 0 < (atRest holdBuild).config.tEndHold :=
  ⟨inv_atRest_hold, rfl, by decide⟩

theorem witness_RingIsWritten :
    base.config.loopback = false ∧ ∃ t, exec .expire (mid .bit 0 false restLines) = .next t := ⟨rfl, _, rfl⟩
theorem witness_ReceiverLeaves : isEdge .edgeH = true ∧ ∃ t, exec .edgeH (mid .bit 0 false restLines) = .next t :=
  ⟨rfl, _, rfl⟩
theorem witness_ReceiverLeaves_poll :
    isPollStep .pend = true ∧ ∃ t, exec .pend (inScan 56 true true false) = .next t := ⟨rfl, _, rfl⟩
theorem witness_InterruptsCommute :
    Inv (mid .enHiA 0 false restLines) ∧ (mid .enHiA 0 false restLines).timer.armed = true ∧
      (mid .enHiA 0 false restLines).config.loopback = false ∧ isEdge .edgeL = true := ⟨inv_mid, rfl, rfl, rfl⟩

theorem witness_Pbegin_starts : base.scan.active = false := rfl
theorem witness_Pbegin_refused : (inScan 0 false false false).scan.active = true := rfl
theorem witness_Pcmp_first :
    (inScan 0 false false false).scan.active = true ∧ (inScan 0 false false false).scan.i.val < 56 := by decide
theorem witness_Pcmp_last : (inScan 55 true true false).scan.i.val < 56 := by decide
theorem witness_Pcmp_unequal :
    ringRead { inScan 55 true true false with rx.ring := ringOf msgA msgB } 55 ≠
      ringRead { inScan 55 true true false with rx.ring := ringOf msgA msgB } 111 := by decide
theorem witness_Pcmp_equal : ringRead (inScan 0 false false false) 0 = ringRead (inScan 0 false false false) 56 := by
  decide
theorem witness_Pcmp_refused : base.scan.active = false ∧ (inScan 56 true true false).scan.i.val = 56 := by decide
theorem witness_Pend_degenerate :
    (inScan 56 true false false).scan.active = true ∧ (inScan 56 true false false).scan.i.val = 56 ∧
      (inScan 56 true false false).scan.ok01 = false := by decide
theorem witness_Pend_torn : (inScan 56 true true true).rx.dirty = true := rfl
theorem witness_Pend_clean :
    (inScan 56 true true false).scan.ok01 = true ∧ (inScan 56 true true false).rx.dirty = false := ⟨rfl, rfl⟩
theorem witness_Pend_changes :
    pack (inScan 56 true true false).scan.snap ≠ (inScan 56 true true false).val.lastChange := by decide
theorem witness_Pend_repeats :
    pack (inScan 56 true true false).scan.snap =
      ({ inScan 56 true true false with val := ⟨msgA, true, msgA, 0⟩ } : State).val.lastChange := by decide
theorem witness_Pend_refused : base.scan.active = false ∧ (inScan 55 true true false).scan.i.val < 56 := by decide
theorem witness_Degenerate :
    Inv (inScan 56 true true false) ∧ (inScan 56 true true false).scan.active = true ∧
      (inScan 56 true true false).scan.i.val = 56 := ⟨inv_scanned, rfl, rfl⟩

theorem test_allOnes :
    ∀ i : Fin 56, ¬ (messageBits #v[0xFF, 0xFF, 0xFF, 0xFF, 0xFF, 0xFF, 0xFF])[i] = false := by decide
theorem witness_Degenerate_send :
    Inv (atRest buildV) ∧ (atRest buildV).tx.state = .rest ∧
      nonDegenerate (messageBits #v[0xFF, 0xFF, 0xFF, 0xFF, 0xFF, 0xFF, 0xFF]) = false :=
  ⟨inv_atRest, rfl, decide_eq_false fun ⟨i, _, _, h, _⟩ => test_allOnes i h⟩
theorem witness_Degenerate_returned :
    ∃ t, Inv (inScan 56 true true false) ∧ exec .pend (inScan 56 true true false) = .next t ∧
      t.port.result = some (.message msgA) := ⟨_, inv_scanned, rfl, by decide⟩

theorem witness_Poll_clean :
    ∃ s : State, s.scan.active = false ∧ halvesAgree s ∧ nonDegenerate (newerHalf s) = true :=
  ⟨{ base with rx := ⟨ringOf msgA msgA, 0, true⟩ }, rfl, by unfold halvesAgree; decide, decide_eq_true ⟨1, 2, by decide⟩⟩
theorem witness_Poll_none :
    ∃ s : State, s.scan.active = false ∧ ¬ (halvesAgree s ∧ nonDegenerate (newerHalf s) = true) :=
  ⟨atRest buildV, rfl, fun h => absurd (h.1 0) (by decide)⟩
theorem witness_PollInsideAScan : (inScan 56 true true true).scan.active = true := rfl

/-- Program 3: an edge after ten pairs. -/
theorem witness_TornScan :
    ∃ s t u : State,
      exec .pbegin { base with rx := ⟨ringOf msgA msgA, 0, true⟩ } = .next s ∧
      (∀ i ∈ List.replicate 10 Instr.pcmp ++ .edgeH :: List.replicate 46 .pcmp, mayFallInScan i = true) ∧
      (∃ i ∈ List.replicate 10 Instr.pcmp ++ .edgeH :: List.replicate 46 .pcmp, isEdge i = true) ∧
      execAll (List.replicate 10 .pcmp ++ .edgeH :: List.replicate 46 .pcmp) s = .next t ∧ exec .pend t = .next u :=
  ⟨_, _, _, rfl, by decide, by decide, rfl, rfl⟩

/-- The same scan torn by the capture of an EXPIRE alone, under `LOOPBACK`. -/
def tornByExpire : State :=
  { mid .clk 7 false (levels .high .low .low) { buildV with loopback := true } with
    rx := ⟨ringOf msgA msgA, 0, true⟩ }
theorem witness_TornScan_loopback :
    ∃ s v w t u : State, exec .pbegin tornByExpire = .next s ∧
      (∀ i ∈ List.replicate 10 Instr.pcmp ++ .expire :: List.replicate 46 .pcmp, mayFallInScan i = true) ∧
      (∀ i ∈ List.replicate 10 Instr.pcmp ++ .expire :: List.replicate 46 .pcmp, isEdge i = false) ∧
      execAll (List.replicate 10 .pcmp) s = .next v ∧ exec .expire v = .next w ∧ w.rx.cursor ≠ v.rx.cursor ∧
      execAll (List.replicate 10 .pcmp ++ .expire :: List.replicate 46 .pcmp) s = .next t ∧
      exec .pend t = .next u :=
  ⟨_, _, _, _, _, rfl, by decide, by decide, rfl, rfl, by decide, rfl, rfl⟩

theorem witness_NoneLeavesTheRecord :
    ∃ t, Instr.txState .pend = none ∧ exec .pend (inScan 56 true true true) = .next t ∧
      t.port.result = some .noMessage := ⟨_, rfl, rfl, rfl⟩
theorem witness_None_pcmp :
    ∃ s : State, s.scan.active = true ∧ s.scan.i.val < 56 ∧ olderBit s s.scan.i.val ≠ newerBit s s.scan.i.val :=
  ⟨{ inScan 55 true true true with rx := ⟨ringOf msgA msgB, 0, true⟩ }, by decide⟩
theorem witness_None_pend :
    (inScan 56 true true true).scan.active = true ∧ (inScan 56 true true true).scan.i.val = 56 ∧
      (inScan 56 true true true).rx.dirty = true := by decide
theorem witness_RecordIsWritten :
    ∃ s t : State, exec .pend s = .next t ∧ s.val.isValid = true :=
  ⟨{ inScan 56 true true false with val := ⟨msgA, true, msgA, 0⟩ }, _, rfl, rfl⟩
theorem witness_PollAgain : ({ base with rx := ⟨ringOf msgA msgA, 0, true⟩ } : State).scan.active = false := rfl
theorem witness_Loopback :
    Inv (atRest loopbackBuild) ∧ (atRest loopbackBuild).tx.state = .rest ∧
      (atRest loopbackBuild).config.loopback = true ∧ (atRest loopbackBuild).scan.active = false :=
  ⟨inv_atRest_loopback, rfl, rfl, rfl⟩
theorem witness_PollAfterTwoPasses : (atRest buildV).scan.active = false := rfl

theorem witness_StepKeepsInv : ∃ s t : State, Inv s ∧ step s = .next t := ⟨_, _, inv_mid, rfl⟩
theorem witness_StepKeepsInv_operation :
    ∃ s t : State, Inv s ∧ s.trace = [0x02] ∧ step s = .next t :=
  ⟨{ mid .clk 55 true (levels .high .low .low) with trace := [0x02] }, _, by constructor <;> decide, rfl, rfl⟩
theorem witness_OnlyTheTraceIsRefused :
    ∃ s : State, Inv s ∧ step s = .refused .expireNotArmed :=
  ⟨{ atRest buildV with trace := [0x02] }, by constructor <;> decide, rfl⟩
theorem witness_ConstantsAreConstant : ∃ t, exec .reset base = .next t := ⟨_, rfl⟩
theorem witness_NoDurationRoundsToZero : 100000 ≤ 100000 ∧ 1 ∈ tickTable 100000 := by decide

/-- Every request down but those named, the lines high. -/
def quietPorts : PortInputs :=
  ⟨false, false, 0, false, false, false, true, true, false, false, false⟩

theorem witness_Ports_one :
    [{ quietPorts with rst := true }, { quietPorts with sendReq := true, sendMsg := 0xA5 },
      { quietPorts with busoffReq := true }, { quietPorts with busonReq := true },
      { quietPorts with timerFire := true }, { quietPorts with pollBegin := true },
      { quietPorts with pollStep := true }, { quietPorts with pollEnd := true }, quietPorts].map
        (fun p => (clockInEdge p base, (requestBits p).count true)) =
      List.replicate 8 (false, 1) ++ [(false, 0)] := by decide
theorem witness_Ports_send :
    { quietPorts with sendReq := true, sendMsg := 0xA5 } =
      { quiet { quietPorts with sendReq := true, sendMsg := 0xA5 } with sendReq := true } := rfl
theorem witness_Ports_none : quietPorts = quiet quietPorts ∧ clockInEdge quietPorts base = false := by decide
theorem witness_Ports_edge_rising :
    (∃ s : State, s.config.loopback = false ∧ s.config.rxEdge = .rising ∧ s.inp.clock = .low) ∧
      quietPorts.clockIn = true ∧ quietPorts.dataIn = true ∧ quietPorts = quiet quietPorts :=
  ⟨⟨{ base with inp := ⟨.low, .low⟩ }, rfl, rfl, rfl⟩, rfl, rfl, rfl⟩
theorem witness_Ports_edge_falling :
    (∃ s : State, s.config.loopback = false ∧ s.config.rxEdge = .falling ∧ s.inp.clock = .high) ∧
      { quietPorts with clockIn := false, dataIn := false } =
        quiet { quietPorts with clockIn := false, dataIn := false } :=
  ⟨⟨afterReset { buildV with rxEdge := .falling }, rfl, rfl, rfl⟩, rfl⟩
theorem witness_Ports_two :
    (clockInEdge { quietPorts with pollStep := true } { base with inp := ⟨.low, .low⟩ } ::
      requestBits { quietPorts with pollStep := true }).count true = 2 := by decide
/-- A SEND requested inside a scan is performed at the ports (log 25). -/
theorem test_ports_send_inside_scan :
    next? (portStep { quietPorts with sendReq := true } (inScan 3 false false false))
      (fun t => (t.port.result, t.scan.active)) = some (some .accepted, true) := by decide

theorem witness_PortOutputs_end :
    Inv (mid .endSeq 0 true (linesBefore ⟨.endSeq, 0, true, msgA⟩) holdBuild) := by constructor <;> decide
theorem witness_PortOutputs_clk :
    Inv (mid .clk 55 true (levels .high .low .low)) ∧
      (mid .clk 55 true (levels .high .low .low)).config.tEndHold = 0 ∧
      (mid .clk 55 true (levels .high .low .low)).timer.armed = true := ⟨inv_mid_clk, rfl, rfl⟩
theorem witness_PortOutputs_arms :
    Inv (mid .enHiA 0 false restLines) ∧ (mid .enHiA 0 false restLines).timer.armed = true ∧
      (mid .enHiA 0 false restLines).tx.state ≠ .endSeq ∧ (mid .enHiA 0 false restLines).tx.state ≠ .clk :=
  ⟨inv_mid, by decide⟩
theorem witness_PortOutputs_buson : ({ base with tx.state := .disabled } : State).tx.state = .disabled := rfl
theorem witness_PortOutputs_pcmp :
    ∃ s : State, s.scan.active = true ∧ s.scan.i.val < 56 ∧ olderBit s s.scan.i.val ≠ newerBit s s.scan.i.val :=
  witness_None_pcmp
theorem witness_PortOutputs_pend :
    (inScan 56 true true false).scan.active = true ∧ (inScan 56 true true false).scan.i.val = 56 ∧
      (inScan 56 true true false).scan.ok01 = true ∧ (inScan 56 true true false).rx.dirty = false := by decide

theorem witness_SendAndExpire_ends :
    Inv (mid .clk 55 true (levels .high .low .low)) ∧
      (mid .clk 55 true (levels .high .low .low)).timer.armed = true ∧
      next? (exec .expire (mid .clk 55 true (levels .high .low .low))) (fun t => t.tx.state) = some .rest :=
  ⟨inv_mid_clk, rfl, by decide⟩
theorem witness_SendAndExpire_goesOn :
    Inv (mid .enHiA 0 false restLines) ∧ (mid .enHiA 0 false restLines).timer.armed = true ∧
      next? (exec .expire (mid .enHiA 0 false restLines)) (fun t => t.tx.state) = some .enLoA :=
  ⟨inv_mid, rfl, by decide⟩

end Sys2Proof.Tests
end

section
/-! The ring cells (R44, R67): a cell is named by an index modulo 112, and a write reaches that cell alone. -/

namespace Sys2Proof.Machine

/-- `RingRead(j)` is cell `j mod 112` (R44). -/
theorem ringRead_eq_getElem (s : State) (j : Nat) :
    ringRead s j = s.rx.ring[j % 112]'(Nat.mod_lt _ (by decide)) := rfl

theorem ringRead_ringWrite_same (s : State) (b : Bool) {j k : Nat} (h : j % 112 = k % 112) :
    ringRead (ringWrite k b s) j = b := by
  have hidx : (ringIndex k).val = j % 112 := h.symm
  simp [ringRead_eq_getElem, hidx]

theorem ringRead_ringWrite_of_ne (s : State) (b : Bool) {j k : Nat} (h : j % 112 ≠ k % 112) :
    ringRead (ringWrite k b s) j = ringRead s j := by
  have hidx : (ringIndex k).val ≠ j % 112 := h.symm
  simp only [ringRead_eq_getElem, ringWrite_rx]
  exact Vector.getElem_set_ne _ _ hidx

/-- A read after a write: the bit written where both name one cell, the old bit elsewhere. -/
theorem ringRead_ringWrite (s : State) (j k : Nat) (b : Bool) :
    ringRead (ringWrite k b s) j = if j % 112 = k % 112 then b else ringRead s j := by
  split
  next h => exact ringRead_ringWrite_same s b h
  next h => exact ringRead_ringWrite_of_ne s b h

/-- The frame of `RingWrite` (R44): no field but the ring changes. -/
theorem ringWrite_frame (s : State) (k : Nat) (b : Bool) :
    ringWrite k b s = { s with rx := { s.rx with ring := (ringWrite k b s).rx.ring } } := rfl

/-- Settles O35: what a read gives, a read after a write by whether the two indices name one cell, and the frame. -/
theorem ringReadAfterWrite : Obligations.RingReadAfterWrite := fun s j k b =>
  ⟨ringRead_eq_getElem s j, ringRead_ringWrite s j k b, ringWrite_frame s k b⟩

end Sys2Proof.Machine
end

section
/-! The invariant in three independent parts (R34): the transmitter with the timer and the lines, the scan with the
ring, and the validated message. Each part takes only the components it speaks of, so an operation that leaves them
alone keeps the part by definition. -/

namespace Sys2Proof.Machine

/-- The cursor, the pass flag and the lines are those that go with `tx.state` (R34 item 3). -/
structure TxPlaced (x : TxSession) (l : Lines) : Prop where
  cursorAtRest : usesCursor x.state = false → x.bitCursor = 0
  passMatchesState : ∀ b, passOf x.state = some b → x.repeatFlag = b
  linesMatchState : x.state ≠ .disabled → l = linesBefore x

/-- The part of the invariant about the transmitter between operations (R17, R84, R113). -/
structure TxInv (c : Config) (x : TxSession) (l : Lines) (tm : Timer) : Prop where
  legalBuild : c.wf = true
  placed : TxPlaced x l
  noImmediateState : x.state ≠ .start ∧ x.state ≠ .rgap
  endOnlyWithHold : x.state = .endSeq → 0 < c.tEndHold
  timerMatchesState : tm.armed = isTimed x.state
  remainingInRange : tm.armed = true → tm.remaining ≤ c.timerMax
  clockLowInFrame : l.clock = .low → l.enable = .high

/-- The part about the scan and the ring (R34 item 7, R53, R134). -/
structure ScanInv (r : RxRing) (sc : Scan) : Prop where
  seen0Means : sc.active = true →
    (sc.seen0 = true ↔ ∃ j : Fin 56, j.val < sc.i.val ∧ sc.snap[j] = false)
  ok01Means : sc.active = true →
    (sc.ok01 = true ↔ ∃ j k : Fin 56, j < k ∧ k.val < sc.i.val ∧ sc.snap[j] = false ∧ sc.snap[k] = true)
  snapshotMeans : sc.active = true → r.dirty = false → r.cursor = sc.base ∧
    ∀ j : Fin 56, j.val < sc.i.val →
      r.ring[ringIndex (sc.base.val + j.val)] = sc.snap[j] ∧
        r.ring[ringIndex (sc.base.val + j.val + 56)] = sc.snap[j]

/-- The part about the validated message (R34 items 8 and 9). -/
structure RecordInv (v : ValidatedMessage) : Prop where
  validIsNonDegenerate : v.isValid = true → nonDegenerate (messageBits v.lastValid) = true
  changeIsLast : v.lastChange = v.lastValid

/-- At rest or DISABLED, from the values the fields must have there (R16, R34 item 3). -/
theorem TxInv.of_rest {c : Config} {x : TxSession} {l : Lines} {tm : Timer} (hwf : c.wf = true)
    (hstate : x.state = .rest ∨ x.state = .disabled) (hcursor : x.bitCursor = 0) (hpass : x.repeatFlag = false)
    (hlines : x.state = .rest → l = restLines) (hframe : l.clock = .low → l.enable = .high)
    (harmed : tm.armed = false) : TxInv c x l tm := by
  obtain hs | hs := hstate
  · refine ⟨hwf, ⟨fun _ => hcursor, ?_, fun _ => ?_⟩, ?_, ?_, ?_, ?_, hframe⟩ <;>
      simp [hs, hpass, passOf, linesBefore, hlines, harmed, isTimed]
  · refine ⟨hwf, ⟨fun _ => hcursor, ?_, fun hne => absurd hs hne⟩, ?_, ?_, ?_, ?_, hframe⟩ <;>
      simp [hs, hpass, passOf, harmed, isTimed]

/-- What the invariant says of a transmitter at REST (R16, R17, R34 item 3). -/
theorem TxInv.at_rest {c : Config} {x : TxSession} {l : Lines} {tm : Timer} (h : TxInv c x l tm)
    (hs : x.state = .rest) :
    x.bitCursor = 0 ∧ x.repeatFlag = false ∧ l = restLines ∧ tm.armed = false := by
  obtain ⟨hcursor, hpass, hlines⟩ := h.placed
  have harmed := h.timerMatchesState
  simp only [hs, linesBefore] at hcursor hpass hlines harmed
  exact ⟨hcursor rfl, hpass _ rfl, hlines nofun, harmed⟩

theorem TxInv.disarmed_of_disabled {c : Config} {x : TxSession} {l : Lines} {tm : Timer} (h : TxInv c x l tm)
    (hs : x.state = .disabled) : tm.armed = false := by
  rw [h.timerMatchesState, hs]
  rfl

/-- The three parts together are the invariant. -/
theorem inv_iff (s : State) :
    Inv s ↔ s.routineActive = false ∧ TxInv s.config s.tx s.lines s.timer ∧ ScanInv s.rx s.scan ∧
      RecordInv s.val := by
  constructor
  · intro h
    exact ⟨h.betweenOperations, { h with placed := { h with } }, { h with }, { h with }⟩
  · rintro ⟨hrest, htx, hscan, hval⟩
    exact { htx, htx.placed, hscan, hval with betweenOperations := hrest }

/-- With no scan active the scan's part says nothing. -/
theorem ScanInv.of_inactive {r : RxRing} {sc : Scan} (h : sc.active = false) : ScanInv r sc := by
  constructor <;> simp [h]

/-- A ring that is the same, or that an EDGE has made dirty, keeps the scan's part (R34 item 7). -/
theorem ScanInv.of_same_or_dirty {r r' : RxRing} {sc : Scan} (h : ScanInv r sc)
    (hr : r' = r ∨ r'.dirty = true) : ScanInv r' sc := by
  obtain rfl | hdirty := hr
  · exact h
  · exact ⟨h.seen0Means, h.ok01Means, by simp [hdirty]⟩

end Sys2Proof.Machine
end

section
/-! The TX routine keeps the invariant: one turn leads from a state the routine may evaluate to another such state,
or to one the operation may end in (R84, R112). -/

namespace Sys2Proof.Machine

/-- What holds whenever the TX routine is about to evaluate `tx.state`. REST asks nothing of the session and the
lines, since its evaluation sets them all (R100); DISABLED is never evaluated. -/
structure RoutineReady (s : State) : Prop where
  legalBuild : s.config.wf = true
  disarmed : s.timer.armed = false
  enabled : s.tx.state ≠ .disabled
  placed : s.tx.state ≠ .rest → TxPlaced s.tx s.lines

/-- The session an evaluation leaves, once its `next` is stored (R84). -/
def Evaluation.session (e : Evaluation) : TxSession := { e.after.tx with state := e.next }

/-- CLOCK is low only between BIT and CLK, inside the frame (R113). -/
theorem linesBefore_clock_low {x : TxSession} (h : (linesBefore x).clock = .low) :
    (linesBefore x).enable = .high := by
  cases hx : x.state <;> simp [linesBefore, hx, restLines] at h ⊢

/-- REST's evaluation puts the transmitter at rest from anywhere (R100). -/
theorem evaluate_rest_txInv {s : State} (hwf : s.config.wf = true) :
    TxInv (evaluate .rest s).after.config (evaluate .rest s).session (evaluate .rest s).after.lines
      (evaluate .rest s).after.timer := by
  apply TxInv.of_rest <;> simp [Evaluation.session, evaluate, evalRest, setRestLevels_eq, restLines, hwf]

/-- CLK's evaluation is one of three rows: a bit that is not the last of its pass, the last of the first pass, the
last of the second (R87). -/
theorem evalClk_rows (s : State) :
    (∃ h : s.tx.bitCursor.val < 55, evalClk s =
      ⟨{ setClock .high s with tx.bitCursor := ⟨s.tx.bitCursor.val + 1, by omega⟩ }, .bit, s.config.t65⟩) ∨
    (s.tx.bitCursor = 55 ∧ s.tx.repeatFlag = false ∧
      evalClk s = ⟨{ setClock .high s with tx.bitCursor := 0, tx.repeatFlag := true }, .rgap, 0⟩) ∨
    (s.tx.bitCursor = 55 ∧ s.tx.repeatFlag = true ∧
      evalClk s = ⟨{ setClock .high s with tx.bitCursor := 0 }, .endSeq, s.config.tEndHold⟩) := by
  by_cases hmid : s.tx.bitCursor.val < 55
  · exact .inl ⟨hmid, evalClk_mid hmid⟩
  · have hval : s.tx.bitCursor.val = 55 := by omega
    cases hr : s.tx.repeatFlag with
    | false => exact .inr (.inl ⟨Fin.ext hval, rfl, evalClk_firstPassEnd hval hr⟩)
    | true => exact .inr (.inr ⟨Fin.ext hval, rfl, evalClk_secondPassEnd hval hr⟩)

/-- CLK's evaluation keeps the place, with DATA still at the bit just sent (R62). -/
theorem evaluate_clk_placed {s : State} (hx : s.tx.state = .clk) (h : TxPlaced s.tx s.lines) :
    TxPlaced (evaluate .clk s).session (evaluate .clk s).after.lines := by
  have hlines : s.lines = ⟨.high, .low, lvl (mbit s.tx.buffer s.tx.bitCursor)⟩ := by
    simpa [linesBefore, hx] using h.linesMatchState
  rw [show evaluate .clk s = evalClk s from rfl]
  obtain ⟨hmid, hrow⟩ | ⟨hlast, -, hrow⟩ | ⟨hlast, hr, hrow⟩ := evalClk_rows s <;> rw [hrow]
  · have hprev : (⟨s.tx.bitCursor.val + 1, by omega⟩ : Fin 56) - 1 = s.tx.bitCursor := by
      rw [sub_eq_iff_eq_add]
      ext
      simp [Fin.val_add]
      omega
    have hne : (⟨s.tx.bitCursor.val + 1, by omega⟩ : Fin 56) ≠ 0 := Fin.ne_of_val_ne (Nat.succ_ne_zero _)
    constructor <;> simp [Evaluation.session, usesCursor, passOf, linesBefore, dataBeforeBit, hlines, hprev, hne]
  · constructor <;> simp [Evaluation.session, passOf, linesBefore, hlines, hlast]
  · constructor <;> simp [Evaluation.session, passOf, linesBefore, hlines, hlast, hr]

/-- Every evaluation of a session goes on from place to place along the frame (R62, R112). END is left out: its
successor REST is evaluated at once. -/
theorem evaluate_placed {x : TxState} {s : State} (hx : s.tx.state = x) (hd : x ≠ .disabled)
    (h : TxPlaced s.tx s.lines) (hn : (evaluate x s).next ≠ .rest) :
    TxPlaced (evaluate x s).session (evaluate x s).after.lines := by
  cases x with
  | disabled => exact absurd rfl hd
  | rest | endSeq => exact absurd rfl hn
  | clk => exact evaluate_clk_placed hx h
  | bit =>
    have hlines : s.lines = ⟨.high, .high, dataBeforeBit s.tx⟩ := by
      simpa [linesBefore, hx] using h.linesMatchState
    constructor <;> simp [Evaluation.session, evaluate, evalBit, usesCursor, passOf, linesBefore, bufBit, hlines]
  | start | enHiA | enLoA | enHiB | rgap | renLo | renHi =>
    obtain ⟨hcursor, hpass, hlines⟩ := h
    constructor <;>
      simp_all [Evaluation.session, evaluate, evalStart, evalEnHiA, evalEnLoA, evalEnHiB, evalRgap, evalRenLo,
        evalRenHi, setRestLevels_eq, usesCursor, passOf, linesBefore, dataBeforeBit, restLines]

/-- A delay leads to a timed state, and to END only as the end hold (R17, R84). -/
theorem evaluate_timed {x : TxState} {s : State} (h : 0 < (evaluate x s).delay) :
    isTimed (evaluate x s).next = true ∧ ((evaluate x s).next = .endSeq → 0 < s.config.tEndHold) := by
  cases x with
  | clk =>
    rw [show evaluate .clk s = evalClk s from rfl] at h ⊢
    obtain ⟨_, hrow⟩ | ⟨_, _, hrow⟩ | ⟨_, _, hrow⟩ := evalClk_rows s <;> rw [hrow] at h ⊢
    · exact ⟨rfl, nofun⟩
    · exact absurd h (Nat.lt_irrefl 0)
    · exact ⟨rfl, fun _ => h⟩
  | rest | endSeq | disabled => exact absurd h (Nat.lt_irrefl 0)
  | start | enHiA | enLoA | enHiB | bit | rgap | renLo | renHi => exact ⟨rfl, nofun⟩

/-- Only REST and DISABLED succeed themselves, and only DISABLED leads to DISABLED (R100 to R111). -/
theorem evaluate_next_ne {x : TxState} {s : State} (hd : x ≠ .disabled) :
    (evaluate x s).next ≠ .disabled ∧ (x ≠ .rest → (evaluate x s).next ≠ x) := by
  cases x with
  | disabled => exact absurd rfl hd
  | clk =>
    obtain ⟨_, hrow⟩ | ⟨_, _, hrow⟩ | ⟨_, _, hrow⟩ := evalClk_rows s <;> simp [evaluate, hrow]
  | rest => exact ⟨nofun, fun h => absurd rfl h⟩
  | start | enHiA | enLoA | enHiB | bit | rgap | renLo | renHi | endSeq => exact ⟨nofun, nofun⟩

/-- A turn that arms the timer suspends in a place of the frame (R84, R112). -/
theorem evaluate_timed_txInv {x : TxState} {s : State} (hwf : s.config.wf = true) (hx : s.tx.state = x)
    (hd : x ≠ .disabled) (h : TxPlaced s.tx s.lines) (hdelay : 0 < (evaluate x s).delay)
    (hmax : (evaluate x s).delay ≤ s.config.timerMax) :
    TxInv s.config (evaluate x s).session (evaluate x s).after.lines ⟨true, (evaluate x s).delay⟩ := by
  obtain ⟨htimed, hhold⟩ := evaluate_timed hdelay
  have huntimed : ∀ y, isTimed y = false → (evaluate x s).next ≠ y := by
    rintro y hy rfl
    exact absurd htimed (by simp [hy])
  have hp := evaluate_placed hx hd h (huntimed _ rfl)
  exact
    { legalBuild := hwf
      placed := hp
      noImmediateState := ⟨huntimed _ rfl, huntimed _ rfl⟩
      endOnlyWithHold := hhold
      timerMatchesState := htimed.symm
      remainingInRange := fun _ => hmax
      clockLowInFrame := hp.linesMatchState (huntimed _ rfl) ▸ linesBefore_clock_low }

/-- What a turn of the routine leads to: another state to evaluate, or one the operation may end in (R84). -/
theorem routineTurn_ready {s u : State} (h : RoutineReady s)
    (hturn : routineTurn s.tx.state (evaluate s.tx.state s) = .next u) :
    (u.routineActive = true → RoutineReady u) ∧
      (u.routineActive = false → TxInv u.config u.tx u.lines u.timer) := by
  obtain ⟨hconfig, -, -, -, -, -, -, htimer, -⟩ := evaluate_frame s.tx.state s
  obtain ⟨hnd, hself⟩ := evaluate_next_ne (s := s) h.enabled
  by_cases hrest : s.tx.state = .rest
  · rw [hrest, routineTurn_immediate rfl] at hturn
    cases hturn
    exact ⟨nofun, fun _ => evaluate_rest_txInv h.legalBuild⟩
  · obtain ⟨hdelay, -, hmax, rfl⟩ | ⟨-, rfl⟩ := routineTurn_next hturn
    · refine ⟨nofun, fun _ => ?_⟩
      rw [hconfig] at hmax
      exact hconfig ▸ evaluate_timed_txInv h.legalBuild rfl h.enabled (h.placed hrest) hdelay hmax
    · refine ⟨fun _ => ?_, fun hstop => absurd (by simpa using hstop) (hself hrest)⟩
      exact
        { legalBuild := hconfig ▸ h.legalBuild
          disarmed := htimer h.disarmed ▸ h.disarmed
          enabled := hnd
          placed := evaluate_placed rfl h.enabled (h.placed hrest) }

/-- A turn leaves RX as it was or makes it dirty: it captures only by a CLOCK write (R125). -/
theorem routineTurn_rx_or {x : TxState} {s u : State} (h : routineTurn x (evaluate x s) = .next u) :
    u.rx = s.rx ∨ u.rx.dirty = true := by
  have hrx : (evaluate x s).after.rx = s.rx ∨ (evaluate x s).after.rx.dirty = true := by
    cases x with
    | clk =>
      obtain ⟨_, hrow⟩ | ⟨_, _, hrow⟩ | ⟨_, _, hrow⟩ := evalClk_rows s <;>
        simpa [evaluate, hrow] using rxAfterClock_or .high s.lines.data s
    | bit => simpa [evaluate, evalBit] using rxAfterClock_or .low _ (setData _ s)
    | rest | start =>
      simpa [evaluate, evalRest, evalStart, setRestLevels_eq] using rxAfterClock_or .high s.lines.data s
    | enHiA | enLoA | enHiB | rgap | renLo | renHi | endSeq | disabled => exact .inl rfl
  obtain ⟨_, _, _, rfl⟩ | ⟨_, rfl⟩ := routineTurn_next h <;> exact hrx

theorem txRoutine_rx_or {s t : State} (h : txRoutine s = .next t) : t.rx = s.rx ∨ t.rx.dirty = true := by
  refine txRoutineFuel_keeps (P := fun u => u.rx = s.rx ∨ u.rx.dirty = true) ?_ 3 s t (.inl rfl) h
  intro v u hv hu
  obtain hsame | hdirty := routineTurn_rx_or hu
  · rwa [hsame]
  · exact .inr hdirty

/-- The routine ends, if it does, in a state the transmitter may rest in, with no operation half done. -/
theorem txRoutineFuel_txInv : ∀ (n : Nat) {s t : State}, RoutineReady s → txRoutineFuel n s = .next t →
    t.routineActive = false ∧ TxInv t.config t.tx t.lines t.timer := by
  intro n
  induction n with
  | zero => intro s t _ h; cases h
  | succ n ih =>
    intro s t hs h
    obtain ⟨u, hu, hrest⟩ := andThen_eq_next.1 h
    obtain ⟨hgo, hend⟩ := routineTurn_ready hs hu
    cases hact : u.routineActive with
    | true => exact ih (hgo hact) (by simpa [hact] using hrest)
    | false =>
      obtain rfl : u = t := by simpa [hact] using hrest
      exact ⟨hact, hend hact⟩

/-- An operation that calls the routine from a state it may evaluate keeps the invariant. -/
theorem txRoutine_keeps_inv {s t : State} (h : txRoutine s = .next t) (hready : RoutineReady s)
    (hscan : ScanInv s.rx s.scan) (hval : RecordInv s.val) : Inv t := by
  obtain ⟨hrest, htx⟩ := txRoutineFuel_txInv 3 hready h
  obtain ⟨-, -, hv, hs, -, -, -⟩ := txRoutine_frame h
  exact (inv_iff t).2 ⟨hrest, htx, hs ▸ hscan.of_same_or_dirty (txRoutine_rx_or h), hv ▸ hval⟩

end Sys2Proof.Machine
end

section
/-! The validator keeps the invariant (R130 to R135). -/

namespace Sys2Proof.Machine

/-- Packing loses nothing: the message bits of `Pack(v)` are `v` (R63). -/
theorem messageBits_pack (v : Vector Bool 56) : messageBits (pack v) = v := by
  ext i hi
  obtain ⟨q, r, hqr⟩ := exists_octet_place ⟨i, hi⟩
  obtain rfl : i = 8 * q.val + r.val := congrArg Fin.val hqr
  simp only [messageBits, Vector.getElem_ofFn]
  rw [mbit_at, pack_getElem, packOctet_bit]

/-- The values a comparison of equal bits stores keep their meaning (R132, R134). -/
theorem ScanInv.compare {r : RxRing} {sc : Scan} {b : Bool} (h : ScanInv r sc) (hact : sc.active = true)
    (hi : sc.i.val < 56) (hold : r.ring[ringIndex (sc.base.val + sc.i.val)] = b)
    (hnew : r.ring[ringIndex (sc.base.val + sc.i.val + 56)] = b) :
    ScanInv r { sc with
      snap := sc.snap.set sc.i.val b hi
      seen0 := nextSeen0 sc b
      ok01 := nextOk01 sc b
      i := ⟨sc.i.val + 1, by omega⟩ } := by
  obtain ⟨hseen, hok⟩ := flags_step hi rfl (h.seen0Means hact) (h.ok01Means hact) (b := b)
  refine ⟨fun _ => hseen, fun _ => hok, fun _ hclean => ?_⟩
  obtain ⟨hcursor, hpairs⟩ := h.snapshotMeans hact hclean
  refine ⟨hcursor, fun j hj => ?_⟩
  simp only [Fin.getElem_fin, Vector.getElem_set]
  split
  next heq =>
    obtain rfl : j = ⟨sc.i.val, hi⟩ := Fin.ext heq.symm
    exact ⟨hold, hnew⟩
  next hne => exact hpairs j (by simp only at hj; omega)

theorem scanBegin_keeps_inv {s t : State} (h : Inv s) (hstep : scanBegin s = .next t) : Inv t := by
  obtain ⟨-, rfl⟩ := scanBegin_next hstep
  obtain ⟨hrest, htx, -, hval⟩ := (inv_iff s).1 h
  exact (inv_iff _).2 ⟨hrest, htx, by constructor <;> simp, hval⟩

theorem scanCompare_keeps_inv {s t : State} (h : Inv s) (hstep : scanCompare s = .next t) : Inv t := by
  obtain ⟨hrest, htx, hscan, hval⟩ := (inv_iff s).1 h
  obtain ⟨hact, hi, ⟨-, rfl⟩ | ⟨heq, rfl⟩⟩ := scanCompare_next hstep
  · exact (inv_iff _).2 ⟨hrest, htx, .of_inactive rfl, hval⟩
  · exact (inv_iff _).2 ⟨hrest, htx, hscan.compare hact hi heq rfl, hval⟩

/-- A clean end commits a message that is not degenerate: after 56 pairs `ok01` speaks of the whole snapshot. -/
theorem ScanInv.nonDegenerate_pack {r : RxRing} {sc : Scan} (h : ScanInv r sc) (hact : sc.active = true)
    (hok : sc.ok01 = true) : nonDegenerate (messageBits (pack sc.snap)) = true := by
  obtain ⟨j, k, hjk, -, hj, hk⟩ := (h.ok01Means hact).1 hok
  rw [messageBits_pack]
  exact decide_eq_true ⟨j, k, hjk, hj, hk⟩

/-- A commit records the message as the last change too, whether or not it is one (R135). -/
theorem commit_recordInv {m : Message} (s : State) (hm : nonDegenerate (messageBits m) = true) :
    RecordInv (commit m s).val := by
  refine ⟨fun _ => hm, ?_⟩
  by_cases hsame : m = s.val.lastChange <;> simp [isChange, hsame]

theorem scanEnd_keeps_inv {s t : State} (h : Inv s) (hstep : scanEnd s = .next t) : Inv t := by
  obtain ⟨hrest, htx, hscan, hval⟩ := (inv_iff s).1 h
  obtain ⟨hact, hi, ⟨-, rfl⟩ | ⟨hclean, rfl⟩⟩ := scanEnd_next hstep
  · exact (inv_iff _).2 ⟨hrest, htx, .of_inactive rfl, hval⟩
  · have hok : s.scan.ok01 = true := (Bool.and_eq_true_iff.1 hclean).1
    exact (inv_iff _).2 ⟨hrest, htx, .of_inactive rfl, commit_recordInv _ (hscan.nonDegenerate_pack hact hok)⟩

theorem scanRest_keeps_inv : ∀ (n : Nat) {s t : State}, Inv s → scanRest n s = .next t → Inv t := by
  intro n
  induction n with
  | zero => intro s t h hstep; exact scanEnd_keeps_inv h hstep
  | succ n ih =>
    intro s t h hstep
    obtain ⟨u, hu, hrest⟩ := andThen_eq_next.1 hstep
    have hinv := scanCompare_keeps_inv h hu
    split at hrest
    · exact ih hinv hrest
    · cases hrest; exact hinv

end Sys2Proof.Machine
end

section
/-! Every operation, every tick, and so every step keeps the invariant. -/

namespace Sys2Proof.Machine

/-- The boundary record and the trace are no part of the invariant. -/
theorem Inv.returning {s : State} (h : Inv s) (r : Result) : Inv (returning r s) := by
  rwa [inv_iff] at h ⊢

theorem Inv.beginOp {s : State} (h : Inv s) : Inv (beginOp s) := by
  rwa [inv_iff] at h ⊢

theorem Inv.withTrace {s : State} (h : Inv s) (bs : List Octet) : Inv { s with trace := bs } := by
  rwa [inv_iff] at h ⊢

theorem Inv.tick {s : State} (h : Inv s) : Inv (tick s) := by
  obtain ⟨hrest, htx, hscan, hval⟩ := (inv_iff s).1 h
  rw [tick_eq]
  refine (inv_iff _).2 ⟨hrest, { htx with timerMatchesState := ?_, remainingInRange := ?_ }, hscan, hval⟩
  · simpa using htx.timerMatchesState
  · intro harmed
    have := htx.remainingInRange (by simpa using harmed)
    simp only [tick_timer]
    split <;> omega

theorem Inv.reset {s : State} (h : Inv s) : Inv (State.resetOf s.config s.lines s.inp s.trace) := by
  refine (inv_iff _).2 ⟨rfl, ?_, .of_inactive rfl, ⟨nofun, rfl⟩⟩
  obtain ⟨-, htx, -, -⟩ := (inv_iff s).1 h
  apply TxInv.of_rest htx.legalBuild <;>
    cases hc : s.config.resetTxState <;> simp [State.resetOf, hc, restLines]
  exact htx.clockLowInFrame

/-- A capture, from either side of the line, keeps the invariant: it makes the ring dirty (R120). -/
theorem Inv.capture {s : State} (h : Inv s) (d : Level) : Inv (capture d s) := by
  obtain ⟨hrest, htx, hscan, hval⟩ := (inv_iff s).1 h
  exact (inv_iff _).2 ⟨hrest, htx, hscan.of_same_or_dirty (.inr rfl), hval⟩

theorem Inv.driveEdge {s : State} (h : Inv s) (d : Level) : Inv (driveEdge d s) := by
  rwa [inv_iff] at h ⊢

theorem execSend_keeps_inv {m : Message} {s t : State} (h : Inv s) (hstep : execSend m s = .next t) : Inv t := by
  obtain ⟨-, htx, hscan, hval⟩ := (inv_iff s).1 h
  unfold execSend at hstep
  split at hstep
  next hrest =>
    obtain ⟨hcursor, hpass, hlines, harmed⟩ := htx.at_rest hrest
    obtain ⟨u, hu, rfl⟩ := andThen_returning hstep
    have hpass' : ∀ b, passOf .start = some b → s.tx.repeatFlag = b := by simp [passOf, hpass]
    exact (txRoutine_keeps_inv hu
      ⟨htx.legalBuild, harmed, nofun, fun _ => ⟨fun _ => hcursor, hpass', fun _ => hlines⟩⟩
      hscan hval).returning _
  next => cases hstep; exact h.beginOp.returning _

theorem execExpire_keeps_inv {s t : State} (h : Inv s) (hstep : execExpire s = .next t) : Inv t := by
  obtain ⟨-, htx, hscan, hval⟩ := (inv_iff s).1 h
  unfold execExpire at hstep
  split at hstep
  next harmed =>
    have henabled : s.tx.state ≠ .disabled := fun hd => by simp [htx.disarmed_of_disabled hd] at harmed
    exact txRoutine_keeps_inv hstep ⟨htx.legalBuild, rfl, henabled, fun _ => htx.placed⟩ hscan hval
  next => cases hstep

theorem execBusoff_keeps_inv {s t : State} (h : Inv s) (hstep : execBusoff s = .next t) : Inv t := by
  obtain ⟨hidle, htx, hscan, hval⟩ := (inv_iff s).1 h
  unfold execBusoff at hstep
  split at hstep
  next hrest =>
    obtain ⟨hcursor, hpass, -, harmed⟩ := htx.at_rest hrest
    cases hstep
    exact (inv_iff _).2 ⟨hidle,
      .of_rest htx.legalBuild (.inr rfl) hcursor hpass nofun htx.clockLowInFrame harmed, hscan, hval⟩
  next => cases hstep; exact h.beginOp.returning _
  next => cases hstep; exact h.beginOp.returning _

theorem execBuson_keeps_inv {s t : State} (h : Inv s) (hstep : execBuson s = .next t) : Inv t := by
  obtain ⟨-, htx, hscan, hval⟩ := (inv_iff s).1 h
  unfold execBuson at hstep
  split at hstep
  next hdisabled =>
    obtain ⟨u, hu, rfl⟩ := andThen_returning hstep
    have harmed := htx.disarmed_of_disabled hdisabled
    exact (txRoutine_keeps_inv hu ⟨htx.legalBuild, harmed, nofun, fun hr => absurd rfl hr⟩ hscan hval).returning _
  next => cases hstep; exact h.beginOp.returning _

theorem execPoll_keeps_inv {s t : State} (h : Inv s) (hstep : execPoll s = .next t) : Inv t := by
  obtain ⟨u, hu, hrest⟩ := andThen_eq_next.1 hstep
  exact scanRest_keeps_inv 56 (scanBegin_keeps_inv h.beginOp hu) hrest

/-- Each of the eleven operations keeps the invariant (R34). -/
theorem exec_keeps_inv {i : Instr} {s t : State} (hi : i.txState = none) (h : Inv s)
    (hstep : exec i s = .next t) : Inv t := by
  cases i with
  | reset => cases hstep; exact h.reset
  | send m => exact execSend_keeps_inv h hstep
  | expire => exact execExpire_keeps_inv h hstep
  | edgeL => cases hstep; exact (h.beginOp.driveEdge _).capture _
  | edgeH => cases hstep; exact (h.beginOp.driveEdge _).capture _
  | poll => exact execPoll_keeps_inv h hstep
  | pbegin => exact scanBegin_keeps_inv h.beginOp hstep
  | pcmp => exact scanCompare_keeps_inv h.beginOp hstep
  | pend => exact scanEnd_keeps_inv h.beginOp hstep
  | busoff => exact execBusoff_keeps_inv h hstep
  | buson => exact execBuson_keeps_inv h hstep
  | txRest | txStart | txEnHiA | txEnLoA | txEnHiB | txBit | txClk | txRgap | txRenLo | txRenHi | txEnd
  | txDisabled => cases hi

/-- Everything a step between operations can do when it answers a next state: a tick, or the first operation of the
trace (R17, R70, R156). -/
theorem step_next {s t : State} (hidle : s.routineActive = false) (hstep : step s = .next t) :
    (s.trace = [] ∧ t = idle s) ∨
      ∃ i bs, decodeTrace s.trace = .ok (i, bs) ∧ scheduleAdmits i s = true ∧
        exec i { s with trace := bs } = .next t := by
  rw [step, if_neg (by simp [hidle])] at hstep
  split at hstep
  next hempty => cases hstep; exact .inl ⟨hempty, rfl⟩
  next htrace =>
    split at hstep
    next => cases hstep
    next i bs hdecode =>
      split at hstep
      next hadmits => exact .inr ⟨i, bs, htrace ▸ hdecode, hadmits, hstep⟩
      next => cases hstep

/-- Settles O52: between operations a step is a tick or one operation, and each keeps the invariant. -/
theorem stepKeepsInv : Obligations.StepKeepsInv := by
  intro s t h hstep
  obtain ⟨-, rfl⟩ | ⟨i, bs, hdecode, -, hexec⟩ := step_next h.betweenOperations hstep
  · exact h.beginOp.tick
  · exact exec_keeps_inv (decodeTrace_txState hdecode) (h.withTrace bs) hexec

end Sys2Proof.Machine
end

section
/-! The capture (R120): what a push into the ring changes, and that the receiver leaves the transmitter alone. -/

namespace Sys2Proof.Machine

/-- A capture writes the inverted level in the cell under the cursor (R120). -/
theorem ringRead_capture_same (d : Level) (s : State) {j : Nat} (h : j % 112 = s.rx.cursor.val) :
    ringRead (capture d s) j = bitOf d := by
  rw [← Nat.mod_eq_of_lt s.rx.cursor.isLt] at h
  exact ringRead_ringWrite_same (record (.readData d) s) (bitOf d) h

/-- A capture leaves every cell but the one under the cursor. -/
theorem ringRead_capture_of_ne (d : Level) (s : State) {j : Nat} (h : j % 112 ≠ s.rx.cursor.val) :
    ringRead (capture d s) j = ringRead s j := by
  rw [← Nat.mod_eq_of_lt s.rx.cursor.isLt] at h
  exact ringRead_ringWrite_of_ne (record (.readData d) s) (bitOf d) h

/-- A capture moves the window on by one sample (R57). -/
theorem window_capture (d : Level) (s : State) : window (capture d s) = (window s).tail ++ [bitOf d] := by
  refine window_push fun i hi => ?_
  have hcell : windowBit (capture d s) i = ringRead (capture d s) ((s.rx.cursor.val + 1) % 112 + i) := rfl
  rw [hcell]
  split
  next hlast => exact ringRead_capture_same d s (by omega)
  next hlast =>
    rw [ringRead_capture_of_ne d s (by omega), windowBit, ringRead_eq_getElem, ringRead_eq_getElem]
    congr 1
    omega

/-- The rule of EDGE (R120): one cell, the cursor, the dirty flag, and nothing else of the core. -/
theorem capture_driveEdge_pushes (d : Level) (s : State) :
    ∃ t, capture d (driveEdge d (beginOp s)) = t ∧ ringRead t s.rx.cursor.val = bitOf d ∧
      (∀ j, j % 112 ≠ s.rx.cursor.val → ringRead t j = ringRead s j) ∧
      t.rx.cursor.val = (s.rx.cursor.val + 1) % 112 ∧ t.rx.dirty = true ∧
      t = { s with rx := t.rx, inp := t.inp, port := ⟨[.readData d], none⟩ } :=
  ⟨_, rfl, ringRead_capture_same d _ (Nat.mod_eq_of_lt s.rx.cursor.isLt),
    fun _ h => ringRead_capture_of_ne d (driveEdge d (beginOp s)) h, rfl, rfl, rfl⟩

/-- Settles O34: both spellings of EDGE are the capture, after the environment has driven the edge. -/
theorem edgePushesOneBit : Obligations.EdgePushesOneBit := by
  intro s
  obtain ⟨t, rfl, hlow⟩ := capture_driveEdge_pushes .low s
  obtain ⟨u, rfl, hhigh⟩ := capture_driveEdge_pushes .high s
  exact ⟨⟨_, rfl, hlow⟩, ⟨_, rfl, hhigh⟩⟩

/-- Settles O38: one case per EDGE and step of a poll, by what each can do. -/
theorem receiverLeavesTheTransmitter : Obligations.ReceiverLeavesTheTransmitter := by
  intro s t i hi hstep
  cases i with
  | edgeL | edgeH => cases hstep; exact ⟨rfl, rfl, rfl, rfl, rfl⟩
  | poll =>
    obtain ⟨-, htx, hlines, htimer, hhook, -, -, -, -, hactive, -⟩ := exec_poll_next hstep
    exact ⟨htx, hlines, htimer, hhook, hactive⟩
  | pbegin =>
    obtain ⟨-, rfl⟩ := scanBegin_next hstep
    exact ⟨rfl, rfl, rfl, rfl, rfl⟩
  | pcmp => obtain ⟨-, -, ⟨-, rfl⟩ | ⟨-, rfl⟩⟩ := scanCompare_next hstep <;> exact ⟨rfl, rfl, rfl, rfl, rfl⟩
  | pend => obtain ⟨-, -, ⟨-, rfl⟩ | ⟨-, rfl⟩⟩ := scanEnd_next hstep <;> exact ⟨rfl, rfl, rfl, rfl, rfl⟩
  | reset | send _ | expire | busoff | buson | txRest | txStart | txEnHiA | txEnLoA | txEnHiB | txBit | txClk
  | txRgap | txRenLo | txRenHi | txEnd | txDisabled => simp [isEdge, isPollStep] at hi

end Sys2Proof.Machine
end

section
/-! One evaluation of REST, START, BIT and CLK as a whole next state (R100, R101, R105, R106). -/

namespace Sys2Proof.Machine

/-- In a legal build a turn with a delay from a disarmed timer arms that delay and suspends (R84). -/
theorem routineTurn_of_delay {x : TxState} {s : State} (hwf : s.config.wf = true) (harmed : s.timer.armed = false)
    (hdelay : 0 < (evaluate x s).delay) :
    routineTurn x (evaluate x s) = .next
      { (evaluate x s).after with
        tx.state := (evaluate x s).next, routineActive := false, timer := ⟨true, (evaluate x s).delay⟩
        port.calls := (evaluate x s).after.port.calls ++ [.armTimer (evaluate x s).delay] } := by
  obtain ⟨hconfig, -, -, -, -, -, -, htimer, -⟩ := evaluate_frame x s
  exact routineTurn_timed hdelay (htimer harmed ▸ harmed) (hconfig ▸ evaluate_delay hwf)

/-- What BIT's CLOCK write does to RX, with DATA already at the bit. -/
theorem rxAfterClock_setData (v d d' : Level) (s : State) : rxAfterClock v d (setData d' s) = rxAfterClock v d s :=
  rxAfterClock_congr rfl rfl rfl

theorem clockCalls_setData (v d d' : Level) (s : State) : clockCalls v d (setData d' s) = clockCalls v d s :=
  clockCalls_congr rfl rfl

/-- TX.REST, whole (R100). -/
theorem exec_txRest (s : State) :
    exec .txRest s = .next
      { s with
        tx := { s.tx with state := .rest, bitCursor := 0, repeatFlag := false }
        lines := restLines
        timer.armed := false
        rx := rxAfterClock .high s.lines.data s
        routineActive := false
        port.calls := s.port.calls ++ .setLine .enable .low ::
          (clockCalls .high s.lines.data s ++ [.setLine .data .high, .disarmTimer]) } := by
  rw [show exec .txRest s = routineTurn .rest (evalRest s) from rfl, routineTurn_immediate rfl]
  simp [evalRest, setRestLevels_eq, disarm, record]

/-- TX.START, whole (R101). -/
theorem exec_txStart {s : State} (hwf : s.config.wf = true) (harmed : s.timer.armed = false) :
    exec .txStart s = .next
      { s with
        tx.state := .enHiA
        lines := restLines
        timer := ⟨true, s.config.t100⟩
        rx := rxAfterClock .high s.lines.data s
        routineActive := false
        port.calls := s.port.calls ++ .setLine .enable .low ::
          (clockCalls .high s.lines.data s ++ [.setLine .data .high, .armTimer s.config.t100]) } := by
  obtain ⟨-, -, -, ⟨hpos, -⟩, -⟩ := (wf_iff _).1 hwf
  rw [show exec .txStart s = _ from exec_instr .start s, routineTurn_of_delay hwf harmed (by exact hpos)]
  simp [evaluate, evalStart, setRestLevels_eq]

/-- TX.BIT, whole (R105). -/
theorem exec_txBit {s : State} (hwf : s.config.wf = true) (harmed : s.timer.armed = false) :
    exec .txBit s = .next
      { s with
        tx.state := .clk
        lines := { s.lines with data := lvl (mbit s.tx.buffer s.tx.bitCursor), clock := .low }
        timer := ⟨true, s.config.t40⟩
        rx := rxAfterClock .low (lvl (mbit s.tx.buffer s.tx.bitCursor)) s
        routineActive := false
        port.calls := s.port.calls ++ .setLine .data (lvl (mbit s.tx.buffer s.tx.bitCursor)) ::
          (clockCalls .low (lvl (mbit s.tx.buffer s.tx.bitCursor)) s ++ [.armTimer s.config.t40]) } := by
  obtain ⟨⟨hpos, -⟩, -⟩ := (wf_iff _).1 hwf
  rw [show exec .txBit s = _ from exec_instr .bit s, routineTurn_of_delay hwf harmed (by exact hpos)]
  simp [evaluate, evalBit, setClock_eq, rxAfterClock_setData, clockCalls_setData, bufBit]

/-- Settles O17. -/
theorem restAndStartWriteRestLevels : Obligations.RestAndStartWriteRestLevels := fun s =>
  ⟨exec_txRest s, exec_txStart⟩

/-- Settles O18. -/
theorem bitStateDrivesTheMessageBit : Obligations.BitStateDrivesTheMessageBit := fun _ => exec_txBit

/-- Settles O19: the row of R87 decides the turn; the last row goes on at once when the end hold is 0. -/
theorem clkStateAdvancesTheCursor : Obligations.ClkStateAdvancesTheCursor := by
  intro s hwf harmed
  have htimed := routineTurn_of_delay (x := .clk) hwf harmed
  rw [show exec .txClk s = routineTurn .clk (evalClk s) from rfl]
  rw [evaluate] at htimed
  obtain ⟨hmid, hrow⟩ | ⟨hlast, hpass, hrow⟩ | ⟨hlast, hpass, hrow⟩ := evalClk_rows s <;> rw [hrow] at htimed ⊢
  · obtain ⟨-, -, ⟨hpos, -⟩, -⟩ := (wf_iff _).1 hwf
    refine ⟨_, htimed hpos, ?_⟩
    simp [setClock_eq, hmid, Nat.ne_of_lt hmid]
  · refine ⟨_, routineTurn_immediate rfl, ?_⟩
    simp [setClock_eq, hlast, hpass, harmed]
  · rcases Nat.eq_zero_or_pos s.config.tEndHold with hhold | hhold
    · refine ⟨_, routineTurn_immediate hhold, ?_⟩
      simp [setClock_eq, hlast, hpass, harmed, hhold]
    · refine ⟨_, htimed hhold, ?_⟩
      simp [setClock_eq, hlast, hpass, hhold, Nat.ne_of_gt hhold]

end Sys2Proof.Machine
end

section
/-! BUSOFF and BUSON (R82, R83). -/

namespace Sys2Proof.Machine

/-- The routine at REST evaluates it once and ends (R84, R100). -/
theorem txRoutineFuel_rest {n : Nat} {s : State} (h : s.tx.state = .rest) :
    txRoutineFuel (n + 1) s = exec .txRest s := by
  rw [txRoutineFuel, h, ← exec_instr, show TxState.rest.instr = .txRest from rfl, exec_txRest]
  rfl

/-- Settles O25: at REST, at DISABLED and elsewhere, the branches of R82 and R83. -/
theorem busoffAndBusonSwitchTheBus : Obligations.BusoffAndBusonSwitchTheBus := by
  intro s
  refine ⟨fun h => ?_, fun h => ?_, fun h => ?_, fun h => ?_⟩
  · simp [exec, execBusoff, h, returning, beginOp]
  · simp [exec, execBusoff, h, returning, beginOp]
  · simp [exec, execBuson, h, returning, beginOp]
  · have hroutine : ∀ u : State, u.tx.state = .rest → txRoutine u = exec .txRest u := fun _ => txRoutineFuel_rest
    rw [show exec .buson s = execBuson s from rfl, execBuson, if_pos h, hroutine _ rfl, exec_txRest]
    rfl

end Sys2Proof.Machine
end

section
/-! The request ports (R166): the requests as a list, and what one, none or several of them do. -/

namespace Sys2Proof.Machine

/-- The `RX_EDGE` transition of a free `CLOCK_IN`, as the port view reads it (R122, R125). -/
theorem clockInEdge_eq (p : PortInputs) (s : State) :
    clockInEdge p s = (!s.config.loopback && isRxEdge s.config.rxEdge (inClock s) (bitLevel p.clockIn)) := by
  cases hloop : s.config.loopback with
  | true => simp [clockInEdge, hloop]
  | false =>
    cases hedge : s.config.rxEdge <;> cases hclock : p.clockIn <;>
      simp [clockInEdge, inClock, isRxEdge, bitLevel, hloop, hedge, hclock]

theorem clockRequest_eq (p : PortInputs) (s : State) :
    clockRequest p s = ifRequested (clockInEdge p s) (if p.dataIn then .edgeH else .edgeL) := by
  rw [clockInEdge_eq]
  rfl

/-- What the request ports ask for, with nothing on the clock (R166). -/
def raised (p : PortInputs) : List Instr :=
  ifRequested p.rst .reset ++ ifRequested p.sendReq (.send (messageOfWord p.sendMsg)) ++
    ifRequested p.busoffReq .busoff ++ ifRequested p.busonReq .buson ++ ifRequested p.timerFire .expire ++
    ifRequested p.pollBegin .pbegin ++ ifRequested p.pollStep .pcmp ++ ifRequested p.pollEnd .pend

theorem portRequests_of_no_edge {p : PortInputs} {s : State} (h : clockInEdge p s = false) :
    portRequests p s = raised p := by
  rw [portRequests, clockRequest_eq, h]
  simp [ifRequested, raised]

theorem raised_quiet (p : PortInputs) : raised (quiet p) = [] := rfl

theorem portStep_of_one {p : PortInputs} {s : State} {i : Instr} (h : portRequests p s = [i]) :
    portStep p s = exec i (driveInputs p s) := by
  rw [portStep, h]

theorem portStep_of_none {p : PortInputs} {s : State} (h : portRequests p s = []) :
    portStep p s = .next (driveInputs p (beginOp s)) := by
  rw [portStep, h]

theorem portStep_of_many {p : PortInputs} {s : State} (h : 2 ≤ (portRequests p s).length) :
    portStep p s = .refused .simultaneousRequests := by
  rw [portStep]
  match portRequests p s, h with
  | _ :: _ :: _, _ => rfl

/-- One request port raised, and nothing on the clock: its operation, with the input lines set (R166). -/
theorem portStep_of_raised {p q : PortInputs} {s : State} {i : Instr} (hclock : clockInEdge p s = false)
    (hp : p = q) (hq : raised q = [i]) :
    portStep p s = exec i { s with inp := ⟨bitLevel p.clockIn, bitLevel p.dataIn⟩ } :=
  portStep_of_one ((portRequests_of_no_edge hclock).trans (hp ▸ hq))

/-- The clock transition alone: an EDGE with the level of `DATA_IN` (R122, R166). -/
theorem portStep_of_clockInEdge {p : PortInputs} {s : State} (hclock : clockInEdge p s = true) (hp : p = quiet p) :
    portStep p s =
      exec (if p.dataIn then .edgeH else .edgeL) { s with inp := ⟨bitLevel p.clockIn, bitLevel p.dataIn⟩ } := by
  apply portStep_of_one
  rw [portRequests, clockRequest_eq, hclock, hp]
  rfl

theorem length_ifRequested (b : Bool) (i : Instr) : (ifRequested b i).length = if b then 1 else 0 := by
  cases b <;> rfl

/-- There are as many requests as ports raised, the clock's transition counted as one. -/
theorem length_portRequests (p : PortInputs) (s : State) :
    (portRequests p s).length = (clockInEdge p s :: requestBits p).count true := by
  simp only [portRequests, clockRequest_eq, requestBits, List.length_append, length_ifRequested, List.count_cons,
    List.count_nil, beq_true]
  omega

/-- Settles O57: the requests are counted, and a single one is its operation. -/
theorem portsRequestOperations : Obligations.PortsRequestOperations := by
  refine ⟨fun s p hclock => ?_, fun s p hloop hedge hp => ?_, fun s p h => ?_, rfl, rfl⟩
  · -- Each port's hypothesis fixes every request, so the list of requests computes to the one operation.
    have hone := fun q i => portStep_of_raised (q := q) (i := i) hclock
    exact ⟨(hone _ _ · rfl), (hone _ _ · rfl), (hone _ _ · rfl), (hone _ _ · rfl), (hone _ _ · rfl),
      (hone _ _ · rfl), (hone _ _ · rfl), (hone _ _ · rfl),
      fun hp => portStep_of_none ((portRequests_of_no_edge hclock).trans (hp ▸ raised_quiet p))⟩
  · have hclock : clockInEdge p s = true := by
      obtain ⟨hrx, hin, hport⟩ | ⟨hrx, hin, hport⟩ := hedge <;> simp [clockInEdge, hloop, hrx, hin, hport]
    have hstep := portStep_of_clockInEdge hclock hp
    exact ⟨fun hdata => by simpa [hdata] using hstep, fun hdata => by simpa [hdata] using hstep⟩
  · exact portStep_of_many (length_portRequests p s ▸ h)

end Sys2Proof.Machine
end

section
/-! A poll that no EDGE tears, as a function of the window (R136). -/

namespace Sys2Proof.Machine

/-- The newer halves of the pairs of a scan. -/
def scanNewer (s : State) : Vector Bool 56 := Vector.ofFn fun i => newerBit s i.val

/-- What a poll with agreeing halves `v` returns (R133, R134). -/
def pollResult (v : Vector Bool 56) : Result := if nonDegenerate v then .message (pack v) else .noMessage

theorem messageBits_injective {m n : Message} (h : messageBits m = messageBits n) : m = n := by
  refine message_ext_bits fun i => ?_
  simpa [messageBits] using congrArg (·[i]) h

theorem pack_messageBits (m : Message) : pack (messageBits m) = m :=
  messageBits_injective (messageBits_pack _)

/-- After 56 pairs of an undisturbed scan the snapshot is the newer half, and `ok01` its degeneracy flag. -/
theorem ScanInv.at_end {s : State} (h : ScanInv s.rx s.scan) (hact : s.scan.active = true)
    (hi : s.scan.i.val = 56) (hclean : s.rx.dirty = false) :
    s.scan.snap = scanNewer s ∧ s.scan.ok01 = nonDegenerate s.scan.snap := by
  constructor
  · ext j hj
    rw [scanNewer, Vector.getElem_ofFn]
    exact ((h.snapshotMeans hact hclean).2 ⟨j, hj⟩ (by simp only; omega)).2.symm
  · have hall : ∀ k : Fin 56, k.val < s.scan.i.val := fun k => by omega
    rw [Bool.eq_iff_iff, h.ok01Means hact, nonDegenerate, decide_eq_true_iff]
    simp only [hall, true_and]

/-- A scan after a pair of equal bits (R132). -/
def afterPair (s : State) (hi : s.scan.i.val < 56) : State :=
  { s with
    scan.snap := s.scan.snap.set s.scan.i.val (newerBit s s.scan.i.val) hi
    scan.seen0 := nextSeen0 s.scan (newerBit s s.scan.i.val)
    scan.ok01 := nextOk01 s.scan (newerBit s s.scan.i.val)
    scan.i := ⟨s.scan.i.val + 1, by omega⟩ }

theorem scanCompare_of_agree {s : State} (hact : s.scan.active = true) (hi : s.scan.i.val < 56)
    (hpair : olderBit s s.scan.i.val = newerBit s s.scan.i.val) : scanCompare s = .next (afterPair s hi) := by
  simp [scanCompare, afterPair, hact, hi, hpair]

/-- The rest of an undisturbed poll whose remaining pairs agree (R132, R133). -/
theorem scanRest_of_agree : ∀ (n : Nat) (s : State), ScanInv s.rx s.scan → s.scan.active = true →
    s.rx.dirty = false → s.scan.i.val + n = 56 → (∀ i < 56, olderBit s i = newerBit s i) →
    ∃ t, scanRest n s = .next t ∧ t.port.result = some (pollResult (scanNewer s)) := by
  intro n
  induction n with
  | zero =>
    intro s h hact hclean hi _
    obtain ⟨hsnap, hok⟩ := h.at_end hact hi hclean
    rw [scanRest, scanEnd, if_pos ⟨hact, hi⟩, scanIsClean, hok, hclean, pollResult, ← hsnap]
    cases nonDegenerate s.scan.snap with
    | true => exact ⟨_, rfl, rfl⟩
    | false => exact ⟨_, rfl, rfl⟩
  | succ n ih =>
    intro s h hact hclean hi hagree
    have hlt : s.scan.i.val < 56 := by omega
    have hpair := hagree _ hlt
    have hnext : s.scan.i.val + 1 + n = 56 := by omega
    obtain ⟨t, ht, hresult⟩ := ih (afterPair s hlt) (h.compare hact hlt hpair rfl) hact hclean hnext hagree
    refine ⟨t, ?_, hresult⟩
    rw [scanRest, scanCompare_of_agree hact hlt hpair, andThen_next, if_pos (by exact hact), ht]

/-- A poll outside a scan, over a ring whose halves agree, returns by the newer half of the window (R136). -/
theorem exec_poll_of_agree {s : State} (hscan : s.scan.active = false) (hagree : halvesAgree s) :
    ∃ t, exec .poll s = .next t ∧ t.port.result = some (pollResult (newerHalf s)) := by
  obtain ⟨t, ht, hresult⟩ := scanRest_of_agree 56
    { beginOp s with rx.dirty := false, scan := ⟨true, s.rx.cursor, 0, false, false, s.scan.snap⟩ }
    (by constructor <;> simp) rfl rfl rfl fun i hi => hagree ⟨i, hi⟩
  refine ⟨t, ?_, hresult⟩
  rw [show exec .poll s = andThen (scanBegin (beginOp s)) (scanRest 56) from rfl, scanBegin, if_neg (by simp [hscan])]
  exact ht

end Sys2Proof.Machine
end

section
/-! The TX routine from a disarmed timer, turn by turn, and the two captures of a bit cell under `LOOPBACK`. -/

namespace Sys2Proof.Machine

/-- A turn with a delay ends the routine (R84). -/
theorem txRoutineFuel_of_delay {n : Nat} {x : TxState} {s : State} (hx : s.tx.state = x)
    (hwf : s.config.wf = true) (harmed : s.timer.armed = false) (hdelay : 0 < (evaluate x s).delay) :
    ∃ u, txRoutineFuel (n + 1) s = .next u ∧ u.tx = (evaluate x s).session ∧ u.rx = (evaluate x s).after.rx := by
  subst hx
  rw [txRoutineFuel, routineTurn_of_delay hwf harmed hdelay]
  exact ⟨_, rfl, rfl, rfl⟩

/-- REST ends the routine too, and leaves RX alone if CLOCK is already high (R100). -/
theorem txRoutineFuel_rest_high {n : Nat} {s : State} (hx : s.tx.state = .rest) (hclock : s.lines.clock = .high) :
    ∃ u, txRoutineFuel (n + 1) s = .next u ∧ u.tx = ⟨.rest, 0, false, s.tx.buffer⟩ ∧ u.rx = s.rx := by
  rw [txRoutineFuel_rest hx, exec_txRest, rxAfterClock_same hclock]
  exact ⟨_, rfl, rfl, rfl⟩

/-- A turn without a delay goes on with the routine at the next state (R84). -/
theorem txRoutineFuel_goes_on {n : Nat} {x : TxState} {s : State} {P : State → Prop} (hx : s.tx.state = x)
    (hdelay : (evaluate x s).delay = 0) (hnext : (evaluate x s).next ≠ x)
    (h : ∃ u, txRoutineFuel n
      { (evaluate x s).after with tx.state := (evaluate x s).next, routineActive := true } = .next u ∧ P u) :
    ∃ u, txRoutineFuel (n + 1) s = .next u ∧ P u := by
  subst hx
  rwa [txRoutineFuel_immediate hdelay hnext]

/-- END goes on to REST at once (R110). -/
theorem txRoutineFuel_end_high {n : Nat} {s : State} (hx : s.tx.state = .endSeq) (hclock : s.lines.clock = .high) :
    ∃ u, txRoutineFuel (n + 2) s = .next u ∧ u.tx = ⟨.rest, 0, false, s.tx.buffer⟩ ∧ u.rx = s.rx :=
  txRoutineFuel_goes_on hx rfl nofun (txRoutineFuel_rest_high rfl hclock)

/-- What BIT's falling edge samples of the bit `b` (R122). -/
def fallSample (e : RxEdge) (b : Bool) : List Bool :=
  match e with
  | .rising => []
  | .falling => [b]

/-- What CLK's rising edge samples of the bit `b` (R122). -/
def riseSample (e : RxEdge) (b : Bool) : List Bool :=
  match e with
  | .rising => [b]
  | .falling => []

/-- A bit cell samples its bit once, whichever `RX_EDGE` is. -/
theorem fallSample_append_riseSample (e : RxEdge) (b : Bool) : fallSample e b ++ riseSample e b = [b] := by
  cases e <;> rfl

/-- The window of `s` moved on by the samples `bs` (R57). -/
def pushed (s : State) (bs : List Bool) : List Bool := (window s ++ bs).drop bs.length

theorem pushed_tail_append (s : State) (bs : List Bool) (b : Bool) :
    (pushed s bs).tail ++ [b] = pushed s (bs ++ [b]) :=
  drop_push _ _ _ (window_length s)

/-- 112 samples push everything older out. -/
theorem pushed_of_length (s : State) {bs : List Bool} (h : bs.length = 112) : pushed s bs = bs := by
  rw [pushed, List.drop_left' (by rw [window_length, h])]

/-- A CLOCK write samples the bit on DATA when it is an edge, and nothing otherwise (R125). -/
theorem window_of_clock {v : Level} {s₀ s u : State} {bs : List Bool} {b : Bool} (hw : window s = pushed s₀ bs)
    (hu : u.rx = rxAfterClock v (lvl b) s) :
    window u = pushed s₀ (bs ++ if loopsBack v s then [b] else []) := by
  cases hloops : loopsBack v s with
  | false =>
    rw [if_neg (by simp), List.append_nil, ← hw]
    exact window_congr (by simp [hu, rxAfterClock, hloops])
  | true =>
    have hpush := window_capture (lvl b) s
    rw [bitOf_lvl] at hpush
    rw [if_pos rfl, ← pushed_tail_append, ← hw, ← hpush]
    exact window_congr (by simp [hu, rxAfterClock, hloops])

theorem loopsBack_fall {s : State} (b : Bool) (hloop : s.config.loopback = true) (hclock : s.lines.clock = .high) :
    (if loopsBack .low s then [b] else []) = fallSample s.config.rxEdge b := by
  cases he : s.config.rxEdge <;> simp [loopsBack, isRxEdge, fallSample, hloop, hclock, he]

theorem loopsBack_rise {s : State} (b : Bool) (hloop : s.config.loopback = true) (hclock : s.lines.clock = .low) :
    (if loopsBack .high s then [b] else []) = riseSample s.config.rxEdge b := by
  cases he : s.config.rxEdge <;> simp [loopsBack, isRxEdge, riseSample, hloop, hclock, he]

end Sys2Proof.Machine
end

section
/-! A session under `LOOPBACK`: each EXPIRE leads from one place of the session to the next (R89, R125). -/

namespace Sys2Proof.Machine

/-- `t` is between two operations of a session that began in `s₀`: the session fields are `x`, and RX has sampled
the bits `bs` since `s₀`. -/
structure InSession (s₀ : State) (x : TxSession) (bs : List Bool) (t : State) : Prop where
  inv : Inv t
  loopback : t.config.loopback = true
  config : t.config = s₀.config
  val : t.val = s₀.val
  scan : t.scan = s₀.scan
  session : t.tx = x
  sampled : window t = pushed s₀ bs

/-- `n` EXPIREs lead from `s` to a state that satisfies `P`. -/
def ExpiresTo (n : Nat) (s : State) (P : State → Prop) : Prop := ∃ t, execAll (expires n) s = .next t ∧ P t

theorem ExpiresTo.one {s t : State} {P : State → Prop} (h : exec .expire s = .next t) (hP : P t) :
    ExpiresTo 1 s P := by
  refine ⟨t, ?_, hP⟩
  simp [expires, execAll, h]

theorem ExpiresTo.trans {n k : Nat} {s : State} {P Q : State → Prop} (h : ExpiresTo n s P)
    (hPQ : ∀ t, P t → ExpiresTo k t Q) : ExpiresTo (n + k) s Q := by
  obtain ⟨t, ht, hP⟩ := h
  obtain ⟨u, hu, hQ⟩ := hPQ t hP
  refine ⟨u, ?_, hQ⟩
  rw [expires, List.replicate_add, execAll_append]
  exact (congrArg (andThen · _) ht).trans hu

variable {s₀ t : State} {x y : TxSession} {bs bs' : List Bool} {m : Message} {c : Fin 56} {r : Bool}

/-- Where the routine leads, the EXPIRE that runs it leads. -/
theorem InSession.expire (h : InSession s₀ x bs t) (htimed : isTimed x.state = true)
    (hroutine : ∃ u, txRoutine (afterExpiry t) = .next u ∧ u.tx = y ∧ window u = pushed s₀ bs') :
    ExpiresTo 1 t (InSession s₀ y bs') := by
  obtain ⟨u, hu, htx, hw⟩ := hroutine
  have harmed : t.timer.armed = true := by rw [h.inv.timerMatchesState, h.session, htimed]
  have hstep := (exec_expire_armed harmed).trans hu
  obtain ⟨hconfig, -, hval, hscan, -⟩ := txRoutine_frame hu
  exact .one hstep
    { inv := exec_keeps_inv rfl h.inv hstep
      loopback := (congrArg Config.loopback hconfig).trans h.loopback
      config := hconfig.trans h.config
      val := hval.trans h.val
      scan := hscan.trans h.scan
      session := htx
      sampled := hw }

/-- The lines at a place of the session (R62). -/
theorem InSession.lines (h : InSession s₀ x bs t) (hx : x.state ≠ .disabled) : t.lines = linesBefore x := by
  obtain rfl := h.session
  exact h.inv.linesMatchState hx

/-- The framing states move ENABLE alone (R102 to R104, R108, R109). -/
theorem InSession.framing {x : TxState} (h : InSession s₀ ⟨x, 0, r, m⟩ bs t)
    (hx : x ∈ [TxState.enHiA, .enLoA, .enHiB, .renLo, .renHi]) :
    ExpiresTo 1 t (InSession s₀ ⟨(evaluate x t).next, 0, r, m⟩ bs) := by
  have hs : (afterExpiry t).tx.state = x := congrArg TxSession.state h.session
  obtain ⟨-, ⟨h60, -⟩, -, ⟨h100, -⟩, -⟩ := (wf_iff _).1 h.inv.legalBuild
  simp only [List.mem_cons, List.not_mem_nil, or_false] at hx
  obtain rfl | rfl | rfl | rfl | rfl := hx <;>
  · refine h.expire rfl ?_
    obtain ⟨u, hu, htx, hrx⟩ := txRoutineFuel_of_delay (n := 2) hs h.inv.legalBuild rfl (by assumption)
    refine ⟨u, hu, htx.trans ?_, (window_congr hrx).trans h.sampled⟩
    simp [Evaluation.session, evaluate, evalEnHiA, evalEnLoA, evalEnHiB, evalRenLo, evalRenHi, h.session]

/-- BIT: the falling edge, with DATA at the bit (R105). -/
theorem InSession.bit (h : InSession s₀ ⟨.bit, c, r, m⟩ bs t) :
    ExpiresTo 1 t (InSession s₀ ⟨.clk, c, r, m⟩ (bs ++ fallSample s₀.config.rxEdge (mbit m c))) := by
  have hs : (afterExpiry t).tx.state = .bit := congrArg TxSession.state h.session
  obtain ⟨⟨h40, -⟩, -⟩ := (wf_iff _).1 h.inv.legalBuild
  obtain ⟨u, hu, htx, hrx⟩ := txRoutineFuel_of_delay (n := 2) hs h.inv.legalBuild rfl h40
  refine h.expire rfl ⟨u, hu, htx.trans ?_, ?_⟩
  · simp [Evaluation.session, evaluate, evalBit, h.session]
  · have hclock : (afterExpiry t).lines.clock = .high := by simp [h.lines, linesBefore]
    have hconfig : (afterExpiry t).config = s₀.config := h.config
    have hloop : (afterExpiry t).config.loopback = true := h.loopback
    rw [← hconfig, ← loopsBack_fall _ hloop hclock]
    refine window_of_clock h.sampled (hrx.trans ?_)
    simp [evaluate, evalBit, bufBit, rxAfterClock_setData, h.session]

/-- CLK's rising edge, with DATA still at the bit: what RX is after its evaluation (R106). -/
theorem InSession.window_clk {u : State} (h : InSession s₀ ⟨.clk, c, r, m⟩ bs t)
    (hrx : u.rx = (evalClk (afterExpiry t)).after.rx) :
    window u = pushed s₀ (bs ++ riseSample s₀.config.rxEdge (mbit m c)) := by
  have hlines : (afterExpiry t).lines = ⟨.high, .low, lvl (mbit m c)⟩ := h.lines nofun
  have hconfig : (afterExpiry t).config = s₀.config := h.config
  have hloop : (afterExpiry t).config.loopback = true := h.loopback
  rw [← hconfig, ← loopsBack_rise _ hloop (by rw [hlines])]
  refine window_of_clock h.sampled (hrx.trans ?_)
  obtain ⟨_, hrow⟩ | ⟨_, _, hrow⟩ | ⟨_, _, hrow⟩ := evalClk_rows (afterExpiry t) <;>
    rw [hrow] <;> simp only [setClock_rx, hlines]

/-- CLK before bit 55 goes on to the next bit (R106). -/
theorem InSession.clk_mid {n : Nat} (hn : n + 1 < 56) (h : InSession s₀ ⟨.clk, ⟨n, by omega⟩, r, m⟩ bs t) :
    ExpiresTo 1 t (InSession s₀ ⟨.bit, ⟨n + 1, hn⟩, r, m⟩
      (bs ++ riseSample s₀.config.rxEdge (mbit m ⟨n, by omega⟩))) := by
  have hs : (afterExpiry t).tx.state = .clk := congrArg TxSession.state h.session
  have hcursor : (afterExpiry t).tx.bitCursor = ⟨n, by omega⟩ := congrArg TxSession.bitCursor h.session
  have hrow := evalClk_mid (s := afterExpiry t) (by rw [hcursor]; simp only; omega)
  obtain ⟨-, -, ⟨h65, -⟩, -⟩ := (wf_iff _).1 h.inv.legalBuild
  obtain ⟨u, hu, htx, hrx⟩ := txRoutineFuel_of_delay (n := 2) hs h.inv.legalBuild rfl
    (by rw [evaluate, hrow]; exact h65)
  refine h.expire rfl ⟨u, hu, htx.trans ?_, h.window_clk hrx⟩
  simp [Evaluation.session, evaluate, hrow, h.session]

/-- CLK at the last bit of the first pass goes on through RGAP to the reframe (R106, R107). -/
theorem InSession.clk_firstPassEnd (h : InSession s₀ ⟨.clk, 55, false, m⟩ bs t) :
    ExpiresTo 1 t (InSession s₀ ⟨.renLo, 0, true, m⟩ (bs ++ riseSample s₀.config.rxEdge (mbit m 55))) := by
  have hs : (afterExpiry t).tx.state = .clk := congrArg TxSession.state h.session
  have hrow : evaluate .clk (afterExpiry t) = _ :=
    evalClk_firstPassEnd (by simp [h.session]) (by simp [h.session])
  obtain ⟨⟨(h40 : 0 < t.config.t40), -⟩, -⟩ := (wf_iff _).1 h.inv.legalBuild
  obtain ⟨u, hu, htx, hrx⟩ := txRoutineFuel_goes_on (n := 2) hs (by rw [hrow]) (by rw [hrow]; exact nofun)
    (txRoutineFuel_of_delay (n := 1) (x := .rgap) (by rw [hrow]) (by rw [hrow]; simpa using h.inv.legalBuild)
      (by rw [hrow]; simp) (by rw [hrow]; simpa [evaluate, evalRgap] using h40))
  refine h.expire rfl ⟨u, hu, htx.trans ?_, h.window_clk hrx⟩
  simp [Evaluation.session, evaluate, evalRgap, evalClk_firstPassEnd, h.session]

/-- CLK at the last bit of the second pass with no end hold: END and REST follow at once (R106, D7). -/
theorem InSession.clk_secondPassEnd (h : InSession s₀ ⟨.clk, 55, true, m⟩ bs t) (hhold : s₀.config.tEndHold = 0) :
    ExpiresTo 1 t (InSession s₀ ⟨.rest, 0, false, m⟩ (bs ++ riseSample s₀.config.rxEdge (mbit m 55))) := by
  have hs : (afterExpiry t).tx.state = .clk := congrArg TxSession.state h.session
  have hrow : evaluate .clk (afterExpiry t) = _ :=
    evalClk_secondPassEnd (by simp [h.session]) (by simp [h.session])
  obtain ⟨u, hu, htx, hrx⟩ := txRoutineFuel_goes_on (n := 2) hs (by rw [hrow]; exact h.config ▸ hhold)
    (by rw [hrow]; exact nofun) (txRoutineFuel_end_high (n := 0) (by rw [hrow]) (by rw [hrow]; simp))
  refine h.expire rfl ⟨u, hu, htx.trans ?_, h.window_clk hrx⟩
  simp [hrow, h.session]

/-- CLK at the last bit of the second pass with an end hold: END waits (R106, D7). -/
theorem InSession.clk_secondPassEnd_hold (h : InSession s₀ ⟨.clk, 55, true, m⟩ bs t)
    (hhold : 0 < s₀.config.tEndHold) :
    ExpiresTo 1 t (InSession s₀ ⟨.endSeq, 0, true, m⟩ (bs ++ riseSample s₀.config.rxEdge (mbit m 55))) := by
  have hs : (afterExpiry t).tx.state = .clk := congrArg TxSession.state h.session
  have hrow : evaluate .clk (afterExpiry t) = _ :=
    evalClk_secondPassEnd (by simp [h.session]) (by simp [h.session])
  obtain ⟨u, hu, htx, hrx⟩ := txRoutineFuel_of_delay (n := 2) hs h.inv.legalBuild rfl
    (by rw [hrow]; exact h.config ▸ hhold)
  refine h.expire rfl ⟨u, hu, htx.trans ?_, h.window_clk hrx⟩
  simp [Evaluation.session, hrow, h.session]

/-- END and REST after the hold (R110, R100). -/
theorem InSession.endSeq (h : InSession s₀ ⟨.endSeq, 0, true, m⟩ bs t) :
    ExpiresTo 1 t (InSession s₀ ⟨.rest, 0, false, m⟩ bs) := by
  obtain ⟨u, hu, htx, hrx⟩ := txRoutineFuel_end_high (n := 1) (s := afterExpiry t)
    (congrArg TxSession.state h.session) (by simp [h.lines, linesBefore])
  refine h.expire rfl ⟨u, hu, htx.trans ?_, (window_congr hrx).trans h.sampled⟩
  simp [h.session]

/-- The bits before `n`, each sampled once (R125, R61). -/
def bitsBefore (m : Message) (n : Nat) : List Bool := ((List.finRange 56).take n).map (mbit m)

theorem bitsBefore_succ (m : Message) {n : Nat} (hn : n < 56) :
    bitsBefore m (n + 1) = bitsBefore m n ++ [mbit m ⟨n, hn⟩] := by
  simp [bitsBefore, finRange_take_succ hn]

theorem bitsBefore_all (m : Message) : bitsBefore m 56 = (messageBits m).toList := map_mbit_finRange m

/-- The samples of a cell behind those before it. -/
theorem append_cell (bs : List Bool) (e : RxEdge) (m : Message) {n : Nat} (hn : n < 56) :
    bs ++ bitsBefore m n ++ fallSample e (mbit m ⟨n, hn⟩) ++ riseSample e (mbit m ⟨n, hn⟩) =
      bs ++ bitsBefore m (n + 1) := by
  rw [bitsBefore_succ m hn, List.append_assoc (bs ++ _), fallSample_append_riseSample, List.append_assoc]

/-- `n` bit cells of a pass, each two EXPIREs (R61). -/
theorem InSession.cells (h : InSession s₀ ⟨.bit, 0, r, m⟩ bs t) : ∀ (n : Nat) (hn : n < 56),
    ExpiresTo (2 * n) t (InSession s₀ ⟨.bit, ⟨n, hn⟩, r, m⟩ (bs ++ bitsBefore m n)) := by
  intro n
  induction n with
  | zero => intro _; exact ⟨t, rfl, by simpa [bitsBefore] using h⟩
  | succ n ih =>
    intro hn
    refine (ih (by omega)).trans fun u hu => hu.bit.trans (k := 1) fun v hv => ?_
    rw [← append_cell bs s₀.config.rxEdge m]
    exact hv.clk_mid hn

/-- A pass up to its last CLK, which the end of the pass decides (R87). -/
theorem InSession.pass (h : InSession s₀ ⟨.bit, 0, r, m⟩ bs t) :
    ExpiresTo 111 t (InSession s₀ ⟨.clk, 55, r, m⟩
      (bs ++ bitsBefore m 55 ++ fallSample s₀.config.rxEdge (mbit m 55))) :=
  (h.cells 55 (by decide)).trans (n := 110) fun _ hu => hu.bit

/-- The framing before the first pass (R62). -/
theorem InSession.opening (h : InSession s₀ ⟨.enHiA, 0, false, m⟩ bs t) :
    ExpiresTo 3 t (InSession s₀ ⟨.bit, 0, false, m⟩ bs) :=
  have hlow : ExpiresTo (1 + 1) t (InSession s₀ ⟨.enHiB, 0, false, m⟩ bs) :=
    (h.framing (by decide)).trans fun _ hu => hu.framing (x := .enLoA) (by decide)
  hlow.trans (k := 1) fun _ hu => hu.framing (x := .enHiB) (by decide)

/-- The reframing between the passes (R62). -/
theorem InSession.reframing (h : InSession s₀ ⟨.renLo, 0, true, m⟩ bs t) :
    ExpiresTo 2 t (InSession s₀ ⟨.bit, 0, true, m⟩ bs) :=
  (h.framing (by decide)).trans (k := 1) fun _ hu => hu.framing (x := .renHi) (by decide)

/-- The first pass, its samples behind what was there. -/
theorem InSession.firstPass (h : InSession s₀ ⟨.bit, 0, false, m⟩ bs t) :
    ExpiresTo 112 t (InSession s₀ ⟨.renLo, 0, true, m⟩ (bs ++ (messageBits m).toList)) := by
  rw [← bitsBefore_all, ← append_cell bs s₀.config.rxEdge m (by decide)]
  exact h.pass.trans fun _ hu => hu.clk_firstPassEnd

/-- The second pass and the end of the session, with an end hold or without (D7). -/
theorem InSession.secondPass (h : InSession s₀ ⟨.bit, 0, true, m⟩ bs t) :
    ExpiresTo (if s₀.config.tEndHold = 0 then 112 else 113) t
      (InSession s₀ ⟨.rest, 0, false, m⟩ (bs ++ (messageBits m).toList)) := by
  rw [← bitsBefore_all, ← append_cell bs s₀.config.rxEdge m (by decide)]
  split
  next hhold => exact h.pass.trans fun _ hu => hu.clk_secondPassEnd hhold
  next hhold =>
    exact (h.pass.trans fun _ hu => hu.clk_secondPassEnd_hold (Nat.pos_of_ne_zero hhold)).trans fun _ hv => hv.endSeq

/-- The EXPIREs of a session lead from the accepted SEND to REST, the message sampled twice (R89, R90). -/
theorem InSession.toRest (h : InSession s₀ ⟨.enHiA, 0, false, m⟩ [] t) :
    ExpiresTo (sessionExpiries s₀.config) t (InSession s₀ ⟨.rest, 0, false, m⟩ (twice m)) := by
  have hcount : sessionExpiries s₀.config = 3 + 112 + 2 + if s₀.config.tEndHold = 0 then 112 else 113 := by
    by_cases hhold : s₀.config.tEndHold = 0 <;> simp [sessionExpiries, hhold]
  have hfirst := h.opening.trans fun _ hu => hu.firstPass
  have hreframed := hfirst.trans fun _ hu => hu.reframing
  have hall := hreframed.trans fun _ hu => hu.secondPass
  rw [List.nil_append] at hall
  rwa [hcount]

/-- SEND at REST starts the session, with no edge: CLOCK is high already (R80, R101). -/
theorem exec_send_inSession {s : State} (m : Message) (h : Inv s) (hs : s.tx.state = .rest)
    (hloop : s.config.loopback = true) :
    ∃ t, exec (.send m) s = .next t ∧ InSession s ⟨.enHiA, 0, false, m⟩ [] t := by
  obtain ⟨-, htx, -, -⟩ := (inv_iff s).1 h
  obtain ⟨hcursor, hpass, hlines, harmed⟩ := htx.at_rest hs
  obtain ⟨-, -, -, ⟨h100, -⟩, -⟩ := (wf_iff _).1 h.legalBuild
  obtain ⟨u, hu, hsession, hrx⟩ := txRoutineFuel_of_delay (n := 2) (x := .start)
    (s := { beginOp s with tx.buffer := m, tx.state := .start }) rfl h.legalBuild harmed h100
  have hstep : exec (.send m) s = .next (returning .accepted u) := by
    simp only [exec, execSend, if_pos hs, txRoutine, hu, andThen_next]
  have hrx' : u.rx = s.rx := by
    rw [hrx, evaluate, evalStart, setRestLevels_eq]
    exact rxAfterClock_same (by simp [hlines, restLines])
  obtain ⟨hconfig, -, hval, hscan, -⟩ := txRoutine_frame hu
  refine ⟨_, hstep, exec_keeps_inv rfl h hstep, ?_, hconfig, hval, hscan, hsession.trans ?_, ?_⟩
  · exact (congrArg Config.loopback hconfig).trans hloop
  · simp [Evaluation.session, evaluate, evalStart, setRestLevels_eq, hcursor, hpass]
  · simpa [pushed] using window_congr (s := returning .accepted u) hrx'

/-- A session as a whole. -/
theorem execAll_session_inSession {s : State} (m : Message) (h : Inv s) (hs : s.tx.state = .rest)
    (hloop : s.config.loopback = true) :
    ∃ t, execAll (session m s.config) s = .next t ∧ InSession s ⟨.rest, 0, false, m⟩ (twice m) t := by
  obtain ⟨u, hu, hstart⟩ := exec_send_inSession m h hs hloop
  obtain ⟨t, ht, hend⟩ := hstart.toRest
  exact ⟨t, (congrArg (andThen · _) hu).trans ht, hend⟩

end Sys2Proof.Machine
end

section
/-! The poll after a session under `LOOPBACK` (R193, R190). -/

namespace Sys2Proof.Machine

theorem length_twice (m : Message) : (twice m).length = 112 := by simp [twice]

/-- A window that holds the message twice: bit `i` of it, in either half. -/
theorem windowBit_of_twice {s : State} {m : Message} (h : window s = twice m) (i : Fin 56) :
    windowBit s i.val = mbit m i ∧ windowBit s (i.val + 56) = mbit m i := by
  have hbit : ∀ j < 112, (twice m)[j]? = some (windowBit s j) := fun j hj => by
    rw [← h, window_getElem?, if_pos hj]
  have hfirst := hbit i.val (by omega)
  have hsecond := hbit (i.val + 56) (by omega)
  rw [twice, List.getElem?_append_left (by simp)] at hfirst
  rw [twice, List.getElem?_append_right (by simp)] at hsecond
  exact ⟨by simpa [messageBits] using hfirst.symm, by simpa [messageBits] using hsecond.symm⟩

/-- Settles O50: the session leaves the message twice in the window, so its halves agree and the poll returns by the
newer one. -/
theorem loopbackSessionValidates : Obligations.LoopbackSessionValidates := by
  intro s m h hs hloop hscan
  obtain ⟨t, ht, hend⟩ := execAll_session_inSession m h hs hloop
  have hwindow : window t = twice m := hend.sampled.trans (pushed_of_length s (length_twice m))
  have hbits := windowBit_of_twice hwindow
  have hnewer : newerHalf t = messageBits m := congrArg Vector.ofFn (funext fun i => (hbits i).2)
  obtain ⟨u, hu, hresult⟩ := exec_poll_of_agree (hend.scan ▸ hscan) fun i => (hbits i).1.trans (hbits i).2.symm
  rw [hnewer, pollResult, pack_messageBits] at hresult
  exact ⟨t, u, ht, hwindow, hend.val, hu, hresult⟩

end Sys2Proof.Machine
end

section
/-! What an EXPIRE that answers a next state has run (R81). -/

namespace Sys2Proof.Machine

theorem exec_expire_next {s t : State} (h : exec .expire s = .next t) : txRoutine (afterExpiry s) = .next t := by
  cases harmed : s.timer.armed with
  | true => rwa [exec_expire_armed harmed] at h
  | false => simp [exec, execExpire, harmed] at h

end Sys2Proof.Machine
end

section
/-! A poll outside a scan, whole: what it returns, what it commits and what it leaves (R136). -/

namespace Sys2Proof.Machine

/-- The rest of a poll ends in one of two ways: `None` and the record as it was, or a message and its commit to
that record (R133, R135). -/
theorem scanRest_commits : ∀ (n : Nat) {s t : State}, scanRest n s = .next t →
    (t.port.result = some .noMessage ∧ t.val = s.val) ∨
      ∃ m, t.port.result = some (.message m) ∧ t.val = (commit m s).val := by
  intro n
  induction n with
  | zero =>
    intro s t h
    obtain ⟨-, -, ⟨-, rfl⟩ | ⟨-, rfl⟩⟩ := scanEnd_next h
    · exact .inl ⟨rfl, rfl⟩
    · exact .inr ⟨_, rfl, rfl⟩
  | succ n ih =>
    intro s t h
    obtain ⟨u, hu, hrest⟩ := andThen_eq_next.1 h
    obtain ⟨hact, _, ⟨-, rfl⟩ | ⟨-, rfl⟩⟩ := scanCompare_next hu
    · cases hrest
      exact .inl ⟨rfl, rfl⟩
    · rw [if_pos (by exact hact)] at hrest
      exact (ih hrest :)

theorem exec_poll_commits {s t : State} (h : exec .poll s = .next t) :
    (t.port.result = some .noMessage ∧ t.val = s.val) ∨
      ∃ m, t.port.result = some (.message m) ∧ t.val = (commit m s).val := by
  obtain ⟨u, hu, hrest⟩ := andThen_eq_next.1 h
  obtain ⟨-, rfl⟩ := scanBegin_next hu
  exact (scanRest_commits 56 hrest :)

/-- The frame of POLL: it ends the scan and clears the dirty flag, and writes no more than the record (R136). -/
theorem exec_poll_frame {s t : State} (h : exec .poll s = .next t) :
    t = { s with rx.dirty := false, scan := t.scan, val := t.val, port := t.port } ∧
      t.scan.active = false ∧ t.port.calls = [] := by
  obtain ⟨-, htx, hlines, htimer, hhook, hrx, hinp, hconfig, htrace, hactive, hcalls, hover, -⟩ := exec_poll_next h
  refine ⟨?_, hover, hcalls⟩
  cases t
  simp_all

/-- The rest of a poll that still has an unequal pair before it ends there with `None` (R132). -/
theorem scanRest_of_disagree : ∀ (n : Nat) {s : State}, s.scan.active = true → s.scan.i.val + n = 56 →
    (∃ i < 56, s.scan.i.val ≤ i ∧ olderBit s i ≠ newerBit s i) →
    ∃ t, scanRest n s = .next t ∧ t.port.result = some .noMessage := by
  intro n
  induction n with
  | zero =>
    rintro s - hi ⟨i, hlt, hle, -⟩
    omega
  | succ n ih =>
    rintro s hact hi ⟨i, hlt, hle, hne⟩
    have hcur : s.scan.i.val < 56 := by omega
    by_cases hpair : olderBit s s.scan.i.val = newerBit s s.scan.i.val
    · have hlater : s.scan.i.val ≠ i := by rintro rfl; exact hne hpair
      obtain ⟨t, ht, hresult⟩ := ih (s := afterPair s hcur) hact (by simp only [afterPair]; omega)
        ⟨i, hlt, by simp only [afterPair]; omega, hne⟩
      refine ⟨t, ?_, hresult⟩
      rw [scanRest, scanCompare_of_agree hact hcur hpair, andThen_next, if_pos (by exact hact), ht]
    · refine ⟨returning .noMessage { s with scan.active := false }, ?_, rfl⟩
      rw [scanRest, scanCompare, dif_pos ⟨hact, hcur⟩, if_pos hpair]
      rfl

/-- A poll outside a scan, over a ring whose halves do not agree, returns `None` (R136). -/
theorem exec_poll_of_disagree {s : State} (hscan : s.scan.active = false) (h : ¬ halvesAgree s) :
    ∃ t, exec .poll s = .next t ∧ t.port.result = some .noMessage := by
  obtain ⟨i, hne⟩ := not_forall.1 h
  obtain ⟨t, ht, hresult⟩ := scanRest_of_disagree 56
    (s := { beginOp s with rx.dirty := false, scan := ⟨true, s.rx.cursor, 0, false, false, s.scan.snap⟩ })
    rfl rfl ⟨i.val, i.isLt, Nat.zero_le _, hne⟩
  refine ⟨t, ?_, hresult⟩
  rw [show exec .poll s = andThen (scanBegin (beginOp s)) (scanRest 56) from rfl, scanBegin, if_neg (by simp [hscan])]
  exact ht

/-- A poll outside a scan completes, and the window decides what it returns (R136). -/
theorem exec_poll_outcome {s : State} (hscan : s.scan.active = false) : ∃ t, exec .poll s = .next t ∧
    (halvesAgree s ∧ nonDegenerate (newerHalf s) = true →
      t.port.result = some (.message (pack (newerHalf s)))) ∧
    (¬ (halvesAgree s ∧ nonDegenerate (newerHalf s) = true) → t.port.result = some .noMessage) := by
  by_cases hagree : halvesAgree s
  · obtain ⟨t, ht, hresult⟩ := exec_poll_of_agree hscan hagree
    refine ⟨t, ht, fun h => ?_, fun h => ?_⟩
    · rw [hresult, pollResult, if_pos h.2]
    · rw [hresult, pollResult, if_neg fun hnd => h ⟨hagree, hnd⟩]
  · obtain ⟨t, ht, hresult⟩ := exec_poll_of_disagree hscan hagree
    exact ⟨t, ht, fun h => absurd h.1 hagree, fun _ => hresult⟩

/-- Settles O44: the window decides the outcome, and the outcome decides whether the record is committed. -/
theorem pollIsAFunctionOfTheWindow : Obligations.PollIsAFunctionOfTheWindow := by
  intro s hscan
  obtain ⟨t, ht, hmessage, hnone⟩ := exec_poll_outcome hscan
  obtain ⟨hframe, hover, hcalls⟩ := exec_poll_frame ht
  refine ⟨t, ht, hframe, hover, hcalls, fun h => ?_, fun h => ?_⟩
  · obtain ⟨hno, -⟩ | ⟨m, hsome, hval⟩ := exec_poll_commits ht
    · exact absurd (hmessage h) (by simp [hno])
    · obtain rfl : m = pack (newerHalf s) := by simpa [hsome] using hmessage h
      refine ⟨hsome, ?_⟩
      by_cases hsame : pack (newerHalf s) = s.val.lastChange <;> simp [hval, isChange, hsame]
  · obtain ⟨hno, hval⟩ | ⟨m, hsome, -⟩ := exec_poll_commits ht
    · exact ⟨hno, hval⟩
    · exact absurd (hnone h) (by simp [hsome])

end Sys2Proof.Machine
end

section
/-! The degenerate sequences (R134): what they are, and that no operation returns one. -/

namespace Sys2Proof.Machine

theorem nonDegenerate_eq_true_iff (v : Vector Bool 56) :
    nonDegenerate v = true ↔ ∃ i j : Fin 56, i < j ∧ v[i] = false ∧ v[j] = true :=
  decide_eq_true_iff

/-- `1^a 0^(56-a)` (R134). -/
def onesThenZeros (a : Nat) : Vector Bool 56 := Vector.ofFn fun i => decide (i.val < a)

theorem onesThenZeros_getElem (a : Nat) (i : Fin 56) : (onesThenZeros a)[i] = decide (i.val < a) := by
  simp [onesThenZeros]

theorem eq_onesThenZeros_iff (v : Vector Bool 56) (a : Nat) :
    v = onesThenZeros a ↔ ∀ i : Fin 56, v[i] = decide (i.val < a) := by
  constructor
  · rintro rfl i
    exact onesThenZeros_getElem a i
  · intro h
    ext i hi
    exact (h ⟨i, hi⟩).trans (onesThenZeros_getElem a ⟨i, hi⟩).symm

/-- Ones followed by zeros hold no 0 before a 1. -/
theorem nonDegenerate_onesThenZeros (a : Nat) : nonDegenerate (onesThenZeros a) = false := by
  refine decide_eq_false ?_
  rintro ⟨i, j, hij, hi, hj⟩
  simp only [onesThenZeros_getElem, decide_eq_false_iff_not, decide_eq_true_iff] at hi hj
  omega

/-- A degenerate sequence is cut at its first 0, at 56 if it has none. -/
theorem eq_onesThenZeros_of_degenerate {v : Vector Bool 56} (h : nonDegenerate v = false) :
    ∃ a ≤ 56, v = onesThenZeros a := by
  have hzero : ∃ n, ∀ hn : n < 56, v[n] = false := ⟨56, fun hn => absurd hn (Nat.lt_irrefl _)⟩
  have hcut := Nat.find_spec hzero
  refine ⟨Nat.find hzero, Nat.find_min' hzero fun hn => absurd hn (Nat.lt_irrefl _),
    (eq_onesThenZeros_iff v _).2 fun i => ?_⟩
  rcases Nat.lt_trichotomy i.val (Nat.find hzero) with hlt | heq | hgt
  · simpa [hlt] using Nat.find_min hzero hlt
  · simpa [heq] using hcut (heq ▸ i.isLt)
  · have hfirst := hcut (hgt.trans i.isLt)
    have hnotOne : v[i] ≠ true := fun hone => by
      simpa [h] using (nonDegenerate_eq_true_iff v).2 ⟨⟨_, hgt.trans i.isLt⟩, i, hgt, hfirst, hone⟩
    rw [decide_eq_false (Nat.not_lt_of_gt hgt), Bool.eq_false_iff]
    exact hnotOne

theorem nonDegenerate_eq_false_iff (v : Vector Bool 56) :
    nonDegenerate v = false ↔ ∃ a ≤ 56, v = onesThenZeros a :=
  ⟨eq_onesThenZeros_of_degenerate, fun ⟨a, _, h⟩ => h ▸ nonDegenerate_onesThenZeros a⟩

/-- Two sequences of ones then zeros differ in the bit where the shorter run of ones stops. -/
theorem onesThenZeros_ne_of_lt {a b : Nat} (hab : a < b) (hb : b ≤ 56) : onesThenZeros a ≠ onesThenZeros b := by
  intro h
  have hbit := (eq_onesThenZeros_iff _ b).1 h ⟨a, by omega⟩
  rw [onesThenZeros_getElem] at hbit
  simp [hab] at hbit

/-- The degenerate sequences, each once (R134). -/
def degenerates : List (Vector Bool 56) := (List.range 57).map onesThenZeros

theorem degenerates_nodup : degenerates.Nodup := by
  refine List.Nodup.map_on (fun a ha b hb h => ?_) List.nodup_range
  rw [List.mem_range] at ha hb
  rcases Nat.lt_trichotomy a b with hlt | heq | hgt
  · exact absurd h (onesThenZeros_ne_of_lt hlt (by omega))
  · exact heq
  · exact absurd h.symm (onesThenZeros_ne_of_lt hgt (by omega))

theorem mem_degenerates (v : Vector Bool 56) : v ∈ degenerates ↔ nonDegenerate v = false := by
  rw [nonDegenerate_eq_false_iff, degenerates, List.mem_map]
  simp only [List.mem_range, Nat.lt_succ_iff, eq_comm (b := v)]

/-- After 56 pairs, torn or not, `ok01` is the degeneracy flag of the snapshot (R132, R134). -/
theorem Inv.ok01_eq_nonDegenerate {s : State} (h : Inv s) (hact : s.scan.active = true)
    (hi : s.scan.i.val = 56) : s.scan.ok01 = nonDegenerate s.scan.snap := by
  have hall : ∀ k : Fin 56, k.val < s.scan.i.val := fun k => by omega
  rw [Bool.eq_iff_iff, h.ok01Means hact, nonDegenerate_eq_true_iff]
  simp only [hall, true_and]

/-- SEND at REST takes every message (R80). -/
theorem exec_send_accepted {s : State} (m : Message) (h : Inv s) (hs : s.tx.state = .rest) :
    ∃ t, exec (.send m) s = .next t ∧ t.port.result = some .accepted ∧ t.tx.buffer = m := by
  obtain ⟨-, htx, -, -⟩ := (inv_iff s).1 h
  obtain ⟨-, -, -, harmed⟩ := htx.at_rest hs
  obtain ⟨-, -, -, ⟨h100, -⟩, -⟩ := (wf_iff _).1 h.legalBuild
  obtain ⟨u, hu, -⟩ := txRoutineFuel_of_delay (n := 2) (x := .start)
    (s := { beginOp s with tx.buffer := m, tx.state := .start }) rfl h.legalBuild harmed h100
  obtain ⟨-, -, -, -, -, hbuffer, -⟩ := txRoutine_frame hu
  refine ⟨returning .accepted u, ?_, rfl, hbuffer⟩
  simp only [exec, execSend, if_pos hs, txRoutine, hu, andThen_next]

/-- The operations that return a message, PEND and POLL, have committed it (R133, R135). -/
theorem exec_message_committed {i : Instr} {s t : State} {m : Message} (hi : i.txState = none)
    (hstep : exec i s = .next t) (hresult : t.port.result = some (.message m)) :
    t.val.lastValid = m ∧ t.val.isValid = true := by
  cases i with
  | poll =>
    obtain ⟨hnone, -⟩ | ⟨m', hsome, hval⟩ := exec_poll_commits hstep
    · simp [hnone] at hresult
    · obtain rfl : m' = m := by simpa [hsome] using hresult
      simp [hval]
  | pend =>
    obtain ⟨-, -, ⟨-, rfl⟩ | ⟨-, rfl⟩⟩ := scanEnd_next hstep
    · simp at hresult
    · simpa using hresult
  | pbegin => obtain ⟨-, rfl⟩ := scanBegin_next hstep; simp at hresult
  | pcmp => obtain ⟨-, _, ⟨-, rfl⟩ | ⟨-, rfl⟩⟩ := scanCompare_next hstep <;> simp at hresult
  | reset | edgeL | edgeH => cases hstep; cases hresult
  | expire =>
    obtain ⟨-, -, -, -, -, -, hnone⟩ := txRoutine_frame (exec_expire_next hstep)
    simp [hnone] at hresult
  | send m' =>
    rw [show exec (.send m') s = execSend m' s from rfl, execSend] at hstep
    split at hstep
    next => obtain ⟨u, -, rfl⟩ := andThen_returning hstep; simp at hresult
    next => cases hstep; cases hresult
  | busoff =>
    rw [show exec .busoff s = execBusoff s from rfl, execBusoff] at hstep
    split at hstep <;> cases hstep <;> cases hresult
  | buson =>
    rw [show exec .buson s = execBuson s from rfl, execBuson] at hstep
    split at hstep
    next => obtain ⟨u, -, rfl⟩ := andThen_returning hstep; simp at hresult
    next => cases hstep; cases hresult
  | txRest | txStart | txEnHiA | txEnLoA | txEnHiB | txBit | txClk | txRgap | txRenLo | txRenHi | txEnd
  | txDisabled => cases hi

/-- Settles O43: the degenerate sequences are counted by where their ones stop, and a returned message has been
committed, which the invariant allows of no degenerate one. -/
theorem degenerateIsOnesThenZeros : Obligations.DegenerateIsOnesThenZeros := by
  refine ⟨nonDegenerate_eq_true_iff, fun v => ?_, ⟨degenerates, by simp [degenerates], degenerates_nodup,
    mem_degenerates⟩, fun s h => h.ok01_eq_nonDegenerate, fun s m h hs _ => exec_send_accepted m h hs, ?_⟩
  · simp only [nonDegenerate_eq_false_iff, eq_onesThenZeros_iff]
  · intro s t i m h hi hstep hresult
    obtain ⟨hlast, hvalid⟩ := exec_message_committed hi hstep hresult
    exact hlast ▸ (exec_keeps_inv hi h hstep).validIsNonDegenerate hvalid

end Sys2Proof.Machine
end

section
/-! A scan into which a capture fell (R136): the dirty flag stays set to the end, and PEND then commits nothing. -/

namespace Sys2Proof.Machine

/-- An EDGE sets the dirty flag (R120). -/
theorem exec_edge_dirty {i : Instr} {s t : State} (hi : isEdge i = true) (hstep : exec i s = .next t) :
    t.rx.dirty = true := by
  rw [isEdge, Bool.or_eq_true, beq_iff_eq, beq_iff_eq] at hi
  obtain rfl | rfl := hi <;> cases hstep <;> rfl

/-- What may fall in a scan leaves the record, and leaves RX as it was or makes it dirty (R120, R125, R132). -/
theorem exec_inScan_frame {i : Instr} {s t : State} (hi : mayFallInScan i = true) (hstep : exec i s = .next t) :
    t.val = s.val ∧ (t.rx = s.rx ∨ t.rx.dirty = true) := by
  cases i with
  | edgeL | edgeH => cases hstep; exact ⟨rfl, .inr rfl⟩
  | pcmp => obtain ⟨-, -, ⟨-, rfl⟩ | ⟨-, rfl⟩⟩ := scanCompare_next hstep <;> exact ⟨rfl, .inl rfl⟩
  | expire =>
    have hroutine := exec_expire_next hstep
    obtain ⟨-, -, hval, -⟩ := txRoutine_frame hroutine
    exact ⟨hval, (txRoutine_rx_or hroutine :)⟩
  | reset | send _ | poll | pbegin | pend | busoff | buson | txRest | txStart | txEnHiA | txEnLoA | txEnHiB | txBit
  | txClk | txRgap | txRenLo | txRenHi | txEnd | txDisabled => cases hi

/-- A run of operations that may fall in a scan leaves the record and a set dirty flag. -/
theorem execAll_inScan_frame : ∀ {is : List Instr} {s t : State}, (∀ i ∈ is, mayFallInScan i = true) →
    execAll is s = .next t → t.val = s.val ∧ (s.rx.dirty = true → t.rx.dirty = true) := by
  intro is
  induction is with
  | nil => intro s t _ h; cases h; exact ⟨rfl, id⟩
  | cons i is ih =>
    intro s t hall h
    obtain ⟨hi, his⟩ := List.forall_mem_cons.1 hall
    obtain ⟨u, hu, hrest⟩ := andThen_eq_next.1 h
    obtain ⟨hval, hrx⟩ := exec_inScan_frame hi hu
    obtain ⟨hval', hdirty'⟩ := ih his hrest
    refine ⟨hval'.trans hval, fun hdirty => hdirty' ?_⟩
    obtain hsame | hset := hrx
    · rwa [hsame]
    · exact hset

/-- A run split at one of its operations. -/
theorem execAll_split {before after : List Instr} {i : Instr} {s t : State}
    (h : execAll (before ++ i :: after) s = .next t) :
    ∃ v w, execAll before s = .next v ∧ exec i v = .next w ∧ execAll after w = .next t := by
  rw [execAll_append] at h
  obtain ⟨v, hv, hrest⟩ := andThen_eq_next.1 h
  obtain ⟨w, hw, hafter⟩ := andThen_eq_next.1 hrest
  exact ⟨v, w, hv, hw, hafter⟩

/-- Each way to tear a scan leaves the dirty flag set: an EDGE and a capture that moved the cursor set it, and
nothing after them clears it (R136). -/
theorem execAll_torn_dirty {is : List Instr} {s t : State} (hall : ∀ i ∈ is, mayFallInScan i = true)
    (h : execAll is s = .next t)
    (htorn : (∃ i ∈ is, isEdge i = true) ∨
      (∃ before i after v w, is = before ++ i :: after ∧ execAll before s = .next v ∧ exec i v = .next w ∧
        w.rx.cursor ≠ v.rx.cursor) ∨
      t.rx.dirty = true) :
    t.rx.dirty = true := by
  have hkept : ∀ {before i after v w}, is = before ++ i :: after → execAll before s = .next v →
      exec i v = .next w → w.rx.dirty = true → t.rx.dirty = true := by
    rintro before i after v w rfl hv hw hdirty
    obtain ⟨v', w', hv', hw', hafter⟩ := execAll_split h
    obtain rfl : v = v' := by simpa [hv] using hv'
    obtain rfl : w = w' := by simpa [hw] using hw'
    exact (execAll_inScan_frame (fun j hj => hall j (by simp [hj])) hafter).2 hdirty
  obtain ⟨i, hmem, hedge⟩ | ⟨before, i, after, v, w, his, hv, hw, hmoved⟩ | hdirty := htorn
  · obtain ⟨before, after, his⟩ := List.append_of_mem hmem
    obtain ⟨v, w, hv, hw, -⟩ := execAll_split (his ▸ h)
    exact hkept his hv hw (exec_edge_dirty hedge hw)
  · obtain ⟨-, hsame | hset⟩ := exec_inScan_frame (hall i (by simp [his])) hw
    · exact absurd (congrArg RxRing.cursor hsame) hmoved
    · exact hkept his hv hw hset
  · exact hdirty

/-- PEND with the dirty flag set returns `None` and leaves the record and the flag (R133). -/
theorem exec_pend_of_dirty {s t : State} (hdirty : s.rx.dirty = true) (hstep : exec .pend s = .next t) :
    t.port.result = some .noMessage ∧ t.val = s.val ∧ t.rx.dirty = true := by
  obtain ⟨-, -, ⟨-, rfl⟩ | ⟨hclean, -⟩⟩ := scanEnd_next hstep
  · exact ⟨rfl, rfl, hdirty⟩
  · simp [scanIsClean, hdirty] at hclean

/-- Settles O46: PBEGIN and what falls in the scan leave the record, and the torn scan ends dirty. -/
theorem tornScanNeverCommits : Obligations.TornScanNeverCommits := by
  intro s₀ s t is hbegin hall hrun htorn
  obtain ⟨-, rfl⟩ := scanBegin_next hbegin
  have hval : t.val = s₀.val := (execAll_inScan_frame hall hrun).1
  have hdirty := execAll_torn_dirty hall hrun htorn
  refine ⟨hval, hdirty, fun u hu => ?_⟩
  obtain ⟨hresult, hkept, hset⟩ := exec_pend_of_dirty hdirty hu
  exact ⟨hresult, hkept.trans hval, hset⟩

end Sys2Proof.Machine
end

section
/-! Two received passes and a poll (R57, R136). -/

namespace Sys2Proof.Machine

/-- The EDGE of a bit pushes that bit and leaves the scan alone (R72, R120). -/
theorem exec_edgeOf (b : Bool) (s : State) :
    ∃ t, exec (edgeOf b) s = .next t ∧ window t = (window s).tail ++ [b] ∧ t.scan = s.scan := by
  cases b with
  | true => exact ⟨_, rfl, window_capture .low (driveEdge .low (beginOp s)), rfl⟩
  | false => exact ⟨_, rfl, window_capture .high (driveEdge .high (beginOp s)), rfl⟩

/-- Received bits move the window on by as many samples (R57). -/
theorem execAll_rxbits (bs : List Bool) (s : State) :
    ∃ t, execAll (rxbits bs) s = .next t ∧ window t = pushed s bs ∧ t.scan = s.scan := by
  induction bs using List.reverseRecOn with
  | nil => exact ⟨s, rfl, by simp [pushed], rfl⟩
  | append_singleton bs b ih =>
    obtain ⟨u, hu, hw, hscan⟩ := ih
    obtain ⟨t, ht, hw', hscan'⟩ := exec_edgeOf b u
    refine ⟨t, ?_, ?_, hscan'.trans hscan⟩
    · rw [rxbits, List.map_append, execAll_append, show execAll (bs.map edgeOf) s = _ from hu]
      simp [execAll, ht]
    · rw [hw', hw, pushed_tail_append]

/-- Two passes fill the window (R57). -/
theorem execAll_two_passes (m m' : Message) (s : State) :
    ∃ t, execAll (rx m ++ rx m') s = .next t ∧
      window t = (messageBits m).toList ++ (messageBits m').toList ∧ t.scan = s.scan := by
  obtain ⟨t, ht, hpushed, hscan⟩ := execAll_rxbits ((messageBits m).toList ++ (messageBits m').toList) s
  have hpasses : rx m ++ rx m' = rxbits ((messageBits m).toList ++ (messageBits m').toList) := List.map_append.symm
  refine ⟨t, ?_, hpushed.trans (pushed_of_length s (by simp)), hscan⟩
  rw [hpasses, ht]

/-- A window that holds one message and then another. -/
theorem windowBit_of_append {s : State} {m m' : Message}
    (h : window s = (messageBits m).toList ++ (messageBits m').toList) (i : Fin 56) :
    windowBit s i.val = mbit m i ∧ windowBit s (i.val + 56) = mbit m' i := by
  have hbit : ∀ j < 112, ((messageBits m).toList ++ (messageBits m').toList)[j]? = some (windowBit s j) :=
    fun j hj => by rw [← h, window_getElem?, if_pos hj]
  have hfirst := hbit i.val (by omega)
  have hsecond := hbit (i.val + 56) (by omega)
  rw [List.getElem?_append_left (by simp)] at hfirst
  rw [List.getElem?_append_right (by simp)] at hsecond
  exact ⟨by simpa [messageBits] using hfirst.symm, by simpa [messageBits] using hsecond.symm⟩

/-- The halves of such a window agree exactly when the messages are the same. -/
theorem halvesAgree_iff_of_append {s : State} {m m' : Message}
    (h : window s = (messageBits m).toList ++ (messageBits m').toList) : halvesAgree s ↔ m = m' := by
  have hbits := windowBit_of_append h
  constructor
  · intro hagree
    exact message_ext_bits fun i => (hbits i).1.symm.trans ((hagree i).trans (hbits i).2)
  · rintro rfl i
    exact (hbits i).1.trans (hbits i).2.symm

/-- Settles O51: the two passes are the two halves of the window, which decides the poll. -/
theorem pollAfterTwoPasses : Obligations.PollAfterTwoPasses := by
  intro s m m' hscan
  obtain ⟨t, ht, hwindow, hscan'⟩ := execAll_two_passes m m' s
  have hagree := halvesAgree_iff_of_append hwindow
  have hnewer : newerHalf t = messageBits m' := congrArg Vector.ofFn (funext fun i => (windowBit_of_append hwindow i).2)
  obtain ⟨u, hu, hmessage, hnone⟩ := exec_poll_outcome ((congrArg Scan.active hscan').trans hscan)
  refine ⟨t, u, ht, hu, ?_⟩
  rw [hagree, hnewer] at hmessage hnone
  rw [pack_messageBits] at hmessage
  by_cases heq : m = m'
  · subst heq
    split
    next h => exact hmessage h
    next h => exact hnone h
  · rw [if_neg fun h => heq h.1]
    exact hnone fun h => heq h.1

end Sys2Proof.Machine
end

section
/-! The outcome each operation answers (R68), and `Busy` (R150). -/

namespace Sys2Proof.Machine

/-- SEND away from REST (R80, R150). -/
theorem exec_send_busy {s : State} (m : Message) (h : s.tx.state ≠ .rest) :
    exec (.send m) s = .next { s with port := ⟨[], some .busy⟩ } :=
  if_neg h

/-- BUSOFF in a session (R82, R150). -/
theorem exec_busoff_busy {s : State} (hrest : s.tx.state ≠ .rest) (hdisabled : s.tx.state ≠ .disabled) :
    exec .busoff s = .next { s with port := ⟨[], some .busy⟩ } := by
  rw [show exec .busoff s = execBusoff s from rfl, execBusoff]
  split
  next h => exact absurd h hrest
  next h => exact absurd h hdisabled
  next => rfl

/-- An operation has one next state, so a known one gives the outcome. -/
theorem result_eq_of_next {a : Answer} {s t : State} (hs : a = .next s) (ht : a = .next t) :
    t.port.result = s.port.result :=
  congrArg (·.port.result) (Host.Outcome.next.inj (ht.symm.trans hs))

/-- What SEND answers, by whether the transmitter is at rest (R80). -/
theorem exec_send_result {m : Message} {s t : State} (hstep : exec (.send m) s = .next t) :
    t.port.result = some (if s.tx.state = .rest then .accepted else .busy) := by
  split
  next hrest =>
    rw [show exec (.send m) s = execSend m s from rfl, execSend, if_pos hrest] at hstep
    obtain ⟨u, -, rfl⟩ := andThen_returning hstep
    rfl
  next hbusy => exact result_eq_of_next (exec_send_busy m hbusy) hstep

/-- What BUSOFF answers, by whether a session is under way (R82). -/
theorem exec_busoff_result {s t : State} (hstep : exec .busoff s = .next t) :
    t.port.result = some (if s.tx.state = .rest ∨ s.tx.state = .disabled then .accepted else .busy) := by
  obtain ⟨hrest, hdisabled, -⟩ := busoffAndBusonSwitchTheBus s
  split
  next h =>
    obtain h | h := h
    · exact result_eq_of_next (hrest h) hstep
    · exact result_eq_of_next (hdisabled h) hstep
  next h =>
    obtain ⟨hr, hd⟩ := not_or.1 h
    exact result_eq_of_next (exec_busoff_busy hr hd) hstep

/-- BUSON is always accepted (R83). -/
theorem exec_buson_result {s t : State} (hstep : exec .buson s = .next t) : t.port.result = some .accepted := by
  obtain ⟨-, -, henabled, hdisabled⟩ := busoffAndBusonSwitchTheBus s
  by_cases h : s.tx.state = .disabled
  · exact result_eq_of_next (hdisabled h) hstep
  · exact result_eq_of_next (henabled h) hstep

/-- The outcome of an operation (R68): the steps of a poll never answer `Busy`; the others answer nothing, the
acceptance, or `Busy` where R150 has it. -/
theorem exec_outcome {i : Instr} {s t : State} (hi : i.txState = none) (hstep : exec i s = .next t) :
    (isPollStep i = true ∧ t.port.result ≠ some .busy) ∨ t.port.result = none ∨
      t.port.result = some .accepted ∨
      (t.port.result = some .busy ∧ ((∃ m, i = .send m ∧ s.tx.state ≠ .rest) ∨
        (i = .busoff ∧ s.tx.state ≠ .rest ∧ s.tx.state ≠ .disabled))) := by
  cases i with
  | poll =>
    refine .inl ⟨rfl, ?_⟩
    obtain ⟨hnone, -⟩ | ⟨m, hsome, -⟩ := exec_poll_commits hstep
    · simp [hnone]
    · simp [hsome]
  | pbegin => obtain ⟨-, rfl⟩ := scanBegin_next hstep; exact .inl ⟨rfl, nofun⟩
  | pcmp => obtain ⟨-, -, ⟨-, rfl⟩ | ⟨-, rfl⟩⟩ := scanCompare_next hstep <;> exact .inl ⟨rfl, nofun⟩
  | pend => obtain ⟨-, -, ⟨-, rfl⟩ | ⟨-, rfl⟩⟩ := scanEnd_next hstep <;> exact .inl ⟨rfl, nofun⟩
  | reset | edgeL | edgeH => cases hstep; exact .inr (.inl rfl)
  | expire =>
    obtain ⟨-, -, -, -, -, -, hresult⟩ := txRoutine_frame (exec_expire_next hstep)
    exact .inr (.inl hresult)
  | buson => exact .inr (.inr (.inl (exec_buson_result hstep)))
  | send m =>
    have hresult := exec_send_result hstep
    split at hresult
    next => exact .inr (.inr (.inl hresult))
    next hbusy => exact .inr (.inr (.inr ⟨hresult, .inl ⟨m, rfl, hbusy⟩⟩))
  | busoff =>
    have hresult := exec_busoff_result hstep
    split at hresult
    next => exact .inr (.inr (.inl hresult))
    next hbusy => exact .inr (.inr (.inr ⟨hresult, .inr ⟨rfl, not_or.1 hbusy⟩⟩))
  | txRest | txStart | txEnHiA | txEnLoA | txEnHiB | txBit | txClk | txRgap | txRenLo | txRenHi | txEnd
  | txDisabled => cases hi

/-- Settles O15: the two raisers, and every other operation by its outcome. -/
theorem busyChangesNothing : Obligations.BusyChangesNothing := by
  refine ⟨fun _ m => exec_send_busy m, fun _ => exec_busoff_busy, fun s t i hstep hbusy hi => ?_, rfl⟩
  obtain ⟨-, hne⟩ | hnone | haccepted | ⟨-, hraiser⟩ := exec_outcome hi hstep
  · exact absurd hbusy hne
  · simp [hnone] at hbusy
  · simp [haccepted] at hbusy
  · exact hraiser

end Sys2Proof.Machine
end

section
/-! `None` (R151): who returns it, and that it leaves all but the dirty flag and the scan. -/

namespace Sys2Proof.Machine

/-- An unequal pair ends the scan with `None` (R132). -/
theorem exec_pcmp_of_disagree {s : State} (hact : s.scan.active = true) (hi : s.scan.i.val < 56)
    (hne : olderBit s s.scan.i.val ≠ newerBit s s.scan.i.val) :
    exec .pcmp s = .next { s with scan.active := false, port := ⟨[], some .noMessage⟩ } :=
  (dif_pos ⟨hact, hi⟩).trans (if_pos hne)

/-- PEND's two reasons for `None` (R133, R137). -/
theorem scanIsClean_eq_false_iff (s : State) :
    scanIsClean s = false ↔ s.scan.ok01 = false ∨ s.rx.dirty = true := by
  rw [scanIsClean, Bool.and_eq_false_iff, Bool.not_eq_false']

/-- A bad scan ends with `None` (R133). -/
theorem exec_pend_of_unclean {s : State} (hact : s.scan.active = true) (hi : s.scan.i.val = 56)
    (h : scanIsClean s = false) :
    exec .pend s = .next { s with scan.active := false, port := ⟨[], some .noMessage⟩ } :=
  (if_pos ⟨hact, hi⟩).trans (if_neg (Bool.eq_false_iff.1 h))

/-- A POLL that returns `None` leaves the record too (R151). -/
theorem exec_poll_none_frame {s t : State} (hstep : exec .poll s = .next t)
    (hnone : t.port.result = some .noMessage) :
    t = { s with rx.dirty := false, scan := t.scan, port := t.port } ∧ t.scan.active = false := by
  obtain ⟨hframe, hover, -⟩ := exec_poll_frame hstep
  obtain ⟨-, hval⟩ | ⟨m, hsome, -⟩ := exec_poll_commits hstep
  · rw [hval] at hframe
    exact ⟨hframe, hover⟩
  · simp [hsome] at hnone

/-- `None` comes from a step of a poll alone (R151). -/
theorem isPollStep_of_noMessage {i : Instr} {s t : State} (hi : i.txState = none) (hstep : exec i s = .next t)
    (hnone : t.port.result = some .noMessage) : isPollStep i = true := by
  obtain ⟨hpoll, -⟩ | hresult | hresult | ⟨hresult, -⟩ := exec_outcome hi hstep
  · exact hpoll
  all_goals simp [hresult] at hnone

/-- Settles O47: `None` comes from PCMP, PEND or POLL, and each by its own rule ends the scan and leaves the rest. -/
theorem noneLeavesTheRecord : Obligations.NoneLeavesTheRecord := by
  refine ⟨fun s hact hi hne => ⟨_, exec_pcmp_of_disagree hact hi hne, rfl⟩,
    fun s hact hi hbad => ⟨_, exec_pend_of_unclean hact hi ((scanIsClean_eq_false_iff s).2 hbad), rfl⟩, ?_, rfl⟩
  intro s t i hi hstep hnone
  have hpoll := isPollStep_of_noMessage hi hstep hnone
  cases i with
  | pcmp =>
    obtain ⟨-, _, ⟨hne, rfl⟩ | ⟨-, rfl⟩⟩ := scanCompare_next hstep
    · exact ⟨.inl ⟨rfl, hne⟩, rfl, nofun, fun _ => rfl, rfl⟩
    · cases hnone
  | pend =>
    obtain ⟨-, -, ⟨hbad, rfl⟩ | ⟨-, rfl⟩⟩ := scanEnd_next hstep
    · exact ⟨.inr (.inl ⟨rfl, (scanIsClean_eq_false_iff s).1 hbad⟩), rfl, nofun, fun _ => rfl, rfl⟩
    · cases hnone
  | poll =>
    obtain ⟨hframe, hover⟩ := exec_poll_none_frame hstep hnone
    have hclean : t.rx.dirty = false := congrArg (·.rx.dirty) hframe
    exact ⟨.inr (.inr rfl), hclean ▸ hframe, fun _ => hclean, fun h => absurd rfl h, hover⟩
  | pbegin => obtain ⟨-, rfl⟩ := scanBegin_next hstep; cases hnone
  | reset | send _ | expire | edgeL | edgeH | busoff | buson | txRest | txStart | txEnHiA | txEnLoA | txEnHiB | txBit
  | txClk | txRgap | txRenLo | txRenHi | txEnd | txDisabled => cases hpoll

end Sys2Proof.Machine
end

section
/-! A poll after a poll (R138, R191). -/

namespace Sys2Proof.Machine

/-- A message that is in the record already is committed without effect: it is no change (R135). -/
theorem commit_val_of_commit {s t : State} {m : Message} (h : t.val = (commit m s).val) :
    (commit m t).val = t.val := by
  have hlast : isChange m t = false := by
    by_cases hsame : m = s.val.lastChange <;> simp [isChange, h, hsame]
  rw [commit_val, hlast, h]
  rfl

/-- What POLL returns and commits depends on the window and the record it finds, so finding those again it answers
as before and writes nothing new (R191). -/
theorem exec_poll_again {s t : State} (hstep : exec .poll s = .next t) :
    ∃ u, exec .poll t = .next u ∧ u.port.result = t.port.result ∧ u.val = t.val := by
  obtain ⟨hscan, -⟩ := exec_poll_next hstep
  obtain ⟨hframe, hover, -⟩ := exec_poll_frame hstep
  have hwindow : windowBit t = windowBit s := by rw [hframe]; rfl
  have hagree : halvesAgree t = halvesAgree s := by simp only [halvesAgree, hwindow]
  have hnewer : newerHalf t = newerHalf s := by simp only [newerHalf, hwindow]
  obtain ⟨t', ht', hmessage, hnone⟩ := exec_poll_outcome hscan
  obtain rfl : t = t' := Host.Outcome.next.inj (hstep.symm.trans ht')
  obtain ⟨u, hu, hmessage', hnone'⟩ := exec_poll_outcome hover
  rw [hagree, hnewer] at hmessage' hnone'
  have hresult : u.port.result = t.port.result := by
    by_cases h : halvesAgree s ∧ nonDegenerate (newerHalf s) = true
    · rw [hmessage h, hmessage' h]
    · rw [hnone h, hnone' h]
  refine ⟨u, hu, hresult, ?_⟩
  obtain ⟨-, hval⟩ | ⟨m, hsome, hval⟩ := exec_poll_commits hu
  · exact hval
  · obtain ⟨hno, -⟩ | ⟨n, hfirst, hcommit⟩ := exec_poll_commits hstep
    · simp [hsome, hno] at hresult
    · obtain rfl : m = n := by simpa [hsome, hfirst] using hresult
      exact hval.trans (commit_val_of_commit hcommit)

/-- Settles O49: the window is as the first POLL found it, and the message is in the record already. -/
theorem pollAgainIsTheSame : Obligations.PollAgainIsTheSame := by
  intro s hscan
  obtain ⟨t, ht, -⟩ := exec_poll_outcome hscan
  obtain ⟨u, hu, hresult, hval⟩ := exec_poll_again ht
  refine ⟨t, u, ht, hu, hresult, hval, ?_⟩
  rw [(exec_poll_frame hu).1, (exec_poll_frame ht).1]

end Sys2Proof.Machine
end

section
/-! EXPIRE as a whole next state: the one turn of a state with a delay, and the chains of immediate states at the end
of a pass (R81, R84, R87). -/

namespace Sys2Proof.Machine

/-- A turn with a delay is the whole of the routine (R84). -/
theorem txRoutineFuel_eq_of_delay {n : Nat} {x : TxState} {s : State} (hx : s.tx.state = x)
    (hwf : s.config.wf = true) (harmed : s.timer.armed = false) (hdelay : 0 < (evaluate x s).delay) :
    txRoutineFuel (n + 1) s = .next
      { (evaluate x s).after with
        tx.state := (evaluate x s).next, routineActive := false, timer := ⟨true, (evaluate x s).delay⟩
        port.calls := (evaluate x s).after.port.calls ++ [.armTimer (evaluate x s).delay] } := by
  rw [txRoutineFuel, hx, routineTurn_of_delay hwf harmed hdelay]
  rfl

/-- An EXPIRE that meets a state with a delay makes that one evaluation (R81, R84). -/
theorem exec_expire_of_delay {x : TxState} {s : State} (hx : s.tx.state = x) (hwf : s.config.wf = true)
    (harmed : s.timer.armed = true) (hdelay : 0 < (evaluate x (afterExpiry s)).delay) :
    exec .expire s = .next
      { (evaluate x (afterExpiry s)).after with
        tx.state := (evaluate x (afterExpiry s)).next, routineActive := false
        timer := ⟨true, (evaluate x (afterExpiry s)).delay⟩
        port.calls :=
          (evaluate x (afterExpiry s)).after.port.calls ++ [.armTimer (evaluate x (afterExpiry s)).delay] } :=
  (exec_expire_armed harmed).trans (txRoutineFuel_eq_of_delay hx hwf rfl hdelay)

/-- END and REST, with CLOCK high already (R110, R100). -/
theorem txRoutineFuel_end {n : Nat} {s : State} (hx : s.tx.state = .endSeq) (hclock : s.lines.clock = .high) :
    txRoutineFuel (n + 2) s = .next
      { s with
        tx := ⟨.rest, 0, false, s.tx.buffer⟩
        lines := restLines
        timer.armed := false
        hookCount := s.hookCount + 1
        routineActive := false
        port.calls := s.port.calls ++ closingCalls } := by
  rw [txRoutineFuel_immediate (by rw [hx]; rfl) (by rw [hx]; nofun), txRoutineFuel_rest (by rw [hx]; rfl),
    exec_txRest, hx, rxAfterClock_same (by exact hclock), clockCalls_same (by exact hclock)]
  simp [evaluate, evalEnd, emitHook, setData, setEnable, record, closingCalls]

/-- CLOCK written by the first evaluation of an EXPIRE. -/
theorem setClock_afterExpiry (v : Level) (s : State) :
    setClock v (afterExpiry s) =
      { s with
        lines.clock := v
        timer := ⟨false, 0⟩
        rx := rxAfterClock v s.lines.data s
        port := ⟨clockCalls v s.lines.data s, none⟩ } := by
  rw [setClock_eq, rxAfterClock_congr (s' := s) rfl rfl rfl, clockCalls_congr (s' := s) rfl rfl]
  rfl

/-- The last CLK of the first pass: CLK and RGAP (R87, D6). -/
theorem exec_expire_firstPassEnd {s : State} (hwf : s.config.wf = true) (harmed : s.timer.armed = true)
    (hx : s.tx.state = .clk) (hlast : s.tx.bitCursor.val = 55) (hpass : s.tx.repeatFlag = false) :
    exec .expire s = .next
      { s with
        tx := ⟨.renLo, 0, true, s.tx.buffer⟩
        lines.clock := .high
        timer := ⟨true, s.config.t40⟩
        rx := rxAfterClock .high s.lines.data s
        routineActive := false
        port := ⟨clockCalls .high s.lines.data s ++ [.armTimer s.config.t40], none⟩ } := by
  have hrow : evaluate (afterExpiry s).tx.state (afterExpiry s) = _ :=
    (congrArg (evaluate · _) hx).trans (evalClk_firstPassEnd hlast hpass)
  obtain ⟨⟨hpos, -⟩, -⟩ := (wf_iff _).1 hwf
  rw [exec_expire_armed harmed, txRoutine, txRoutineFuel_immediate (by rw [hrow]) (by rw [hrow]; simp [hx]), hrow,
    txRoutineFuel_eq_of_delay (x := .rgap) rfl (by simpa using hwf) (by simp)
      (by rw [setClock_afterExpiry]; exact hpos)]
  simp [evaluate, evalRgap, setClock_afterExpiry]

/-- The last CLK of the second pass without an end hold: CLK, END and REST (R87, D7, D4). -/
theorem exec_expire_secondPassEnd {s : State} (harmed : s.timer.armed = true)
    (hx : s.tx.state = .clk) (hlast : s.tx.bitCursor.val = 55) (hpass : s.tx.repeatFlag = true)
    (hhold : s.config.tEndHold = 0) :
    exec .expire s = .next
      { s with
        tx := ⟨.rest, 0, false, s.tx.buffer⟩
        lines := restLines
        timer := ⟨false, 0⟩
        hookCount := s.hookCount + 1
        rx := rxAfterClock .high s.lines.data s
        routineActive := false
        port := ⟨clockCalls .high s.lines.data s ++ closingCalls, none⟩ } := by
  have hrow : evaluate (afterExpiry s).tx.state (afterExpiry s) = _ :=
    (congrArg (evaluate · _) hx).trans (evalClk_secondPassEnd hlast hpass)
  rw [exec_expire_armed harmed, txRoutine,
    txRoutineFuel_immediate (by rw [hrow]; exact hhold) (by rw [hrow]; simp [hx]), hrow,
    txRoutineFuel_end rfl (by simp)]
  simp [setClock_afterExpiry]

/-- The last CLK of the second pass with an end hold: CLK alone (R87, D7). -/
theorem exec_expire_secondPassEnd_hold {s : State} (hwf : s.config.wf = true) (harmed : s.timer.armed = true)
    (hx : s.tx.state = .clk) (hlast : s.tx.bitCursor.val = 55) (hpass : s.tx.repeatFlag = true)
    (hhold : 0 < s.config.tEndHold) :
    exec .expire s = .next
      { s with
        tx := ⟨.endSeq, 0, true, s.tx.buffer⟩
        lines.clock := .high
        timer := ⟨true, s.config.tEndHold⟩
        rx := rxAfterClock .high s.lines.data s
        routineActive := false
        port := ⟨clockCalls .high s.lines.data s ++ [.armTimer s.config.tEndHold], none⟩ } := by
  have hrow : evaluate .clk (afterExpiry s) = _ := evalClk_secondPassEnd hlast hpass
  rw [exec_expire_of_delay hx hwf harmed (by rw [hrow]; exact hhold), hrow]
  simp [setClock_afterExpiry, hpass]

/-- The end of the hold: END and REST (R110, D4). -/
theorem exec_expire_end {s : State} (harmed : s.timer.armed = true) (hx : s.tx.state = .endSeq)
    (hclock : s.lines.clock = .high) :
    exec .expire s = .next
      { s with
        tx := ⟨.rest, 0, false, s.tx.buffer⟩
        lines := restLines
        timer := ⟨false, 0⟩
        hookCount := s.hookCount + 1
        routineActive := false
        port := ⟨closingCalls, none⟩ } :=
  (exec_expire_armed harmed).trans (txRoutineFuel_end hx hclock)

/-- Settles O23: the rows of R87 at bit 55, and END. -/
theorem expireRunsImmediateStates : Obligations.ExpireRunsImmediateStates := fun _ hwf harmed =>
  ⟨exec_expire_firstPassEnd hwf harmed, exec_expire_secondPassEnd harmed, exec_expire_secondPassEnd_hold hwf harmed,
    exec_expire_end harmed⟩

end Sys2Proof.Machine
end

section
/-! The calls of a session, operation by operation, up to the whole frame, in every build
(R62, R89); what RX samples under `LOOPBACK` is `InSession`'s. -/

namespace Sys2Proof.Machine

/-- `t` is between two operations, with the session fields `x`, in the build `k`. -/
structure SessionAt (k : Config) (x : TxSession) (t : State) : Prop where
  inv : Inv t
  config : t.config = k
  session : t.tx = x

/-- `n` EXPIREs lead from `s` to a state that satisfies `P`, and the bus and the timer see the calls `cs`. -/
def ExpiresCalling (n : Nat) (s : State) (cs : List Call) (P : State → Prop) : Prop :=
  ∃ calls t, execAllCalls (expires n) s = some (calls, t) ∧ calls.filter isTxCall = cs ∧ P t

theorem ExpiresCalling.zero {s : State} {P : State → Prop} (h : P s) : ExpiresCalling 0 s [] P :=
  ⟨[], s, rfl, rfl, h⟩

theorem ExpiresCalling.trans {n k : Nat} {s : State} {cs ds : List Call} {P Q : State → Prop}
    (h : ExpiresCalling n s cs P) (hPQ : ∀ t, P t → ExpiresCalling k t ds Q) :
    ExpiresCalling (n + k) s (cs ++ ds) Q := by
  obtain ⟨calls, t, ht, rfl, hP⟩ := h
  obtain ⟨calls', u, hu, rfl, hQ⟩ := hPQ t hP
  refine ⟨calls ++ calls', u, ?_, List.filter_append .., hQ⟩
  rw [show expires (n + k) = expires n ++ expires k from List.replicate_add .., execAllCalls_append ht, hu]
  rfl

/-- Where one EXPIRE leads. -/
theorem SessionAt.expire {k : Config} {x y : TxSession} {t u : State} (h : SessionAt k x t)
    (hstep : exec .expire t = .next u) (hsession : u.tx = y) :
    ExpiresCalling 1 t (u.port.calls.filter isTxCall) (SessionAt k y) := by
  obtain ⟨hconfig, -⟩ := txRoutine_frame (exec_expire_next hstep)
  refine ⟨u.port.calls, u, ?_, rfl, exec_keeps_inv rfl h.inv hstep, hconfig.trans h.config, hsession⟩
  simp [expires, execAllCalls, hstep]

/-- RX's read of DATA is no call of the transmitter. -/
theorem filter_clockCalls (v d : Level) (s : State) : (clockCalls v d s).filter isTxCall = [.setLine .clock v] := by
  rw [clockCalls]
  split <;> rfl

variable {k : Config} {x : TxSession} {t : State} {m : Message} {c : Fin 56} {r : Bool}

theorem SessionAt.armed (h : SessionAt k x t) (htimed : isTimed x.state = true) : t.timer.armed = true := by
  rw [h.inv.timerMatchesState, h.session, htimed]

/-- A framing state moves ENABLE and waits (R102 to R104, R108, R109). -/
theorem SessionAt.framing {x y : TxState} {v : Level} {d : Config → Nat} (h : SessionAt k ⟨x, 0, r, m⟩ t)
    (heval : ∀ s, evaluate x s = ⟨setEnable v s, y, d s.config⟩) (htimed : isTimed x = true)
    (hpos : ∀ c : Config, c.wf = true → 0 < d c) :
    ExpiresCalling 1 t [.setLine .enable v, .armTimer (d k)] (SessionAt k ⟨y, 0, r, m⟩) := by
  have hstep := exec_expire_of_delay (congrArg TxSession.state h.session) h.inv.legalBuild (h.armed htimed)
    (by rw [heval]; exact hpos _ h.inv.legalBuild)
  rw [heval] at hstep
  have := h.expire hstep (y := ⟨y, 0, r, m⟩) (by simp [h.session])
  simpa [List.filter_cons, isTxCall, h.config] using this

/-- BIT: the first half of a bit cell (R105). -/
theorem SessionAt.bit (h : SessionAt k ⟨.bit, c, r, m⟩ t) :
    ExpiresCalling 1 t (bitCalls m k c) (SessionAt k ⟨.clk, c, r, m⟩) := by
  obtain ⟨⟨hpos, -⟩, -⟩ := (wf_iff _).1 h.inv.legalBuild
  have hstep := exec_expire_of_delay (congrArg TxSession.state h.session) h.inv.legalBuild (h.armed rfl)
    (by exact hpos)
  have := h.expire hstep (y := ⟨.clk, c, r, m⟩) (by simp [evaluate, evalBit, h.session])
  simpa [evaluate, evalBit, bufBit, bitCalls, List.filter_cons, isTxCall, filter_clockCalls, h.session, h.config]
    using this

/-- CLK before bit 55: the second half of a bit cell (R106). -/
theorem SessionAt.clk_mid {n : Nat} (hn : n + 1 < 56) (h : SessionAt k ⟨.clk, ⟨n, by omega⟩, r, m⟩ t) :
    ExpiresCalling 1 t (clkCalls k ⟨n, by omega⟩) (SessionAt k ⟨.bit, ⟨n + 1, hn⟩, r, m⟩) := by
  have hcursor : (afterExpiry t).tx.bitCursor = ⟨n, by omega⟩ := congrArg TxSession.bitCursor h.session
  have hrow : evaluate .clk (afterExpiry t) = _ := evalClk_mid (by rw [hcursor]; simp only; omega)
  obtain ⟨-, -, ⟨hpos, -⟩, -⟩ := (wf_iff _).1 h.inv.legalBuild
  have hstep := exec_expire_of_delay (congrArg TxSession.state h.session) h.inv.legalBuild (h.armed rfl)
    (by rw [hrow]; exact hpos)
  rw [hrow] at hstep
  have := h.expire hstep (y := ⟨.bit, ⟨n + 1, hn⟩, r, m⟩) (by simp [h.session])
  simpa [clkCalls, show n < 55 by omega, List.filter_cons, isTxCall, filter_clockCalls, h.config] using this

/-- The first `n` bit cells of a pass (R61). -/
def cellCalls (m : Message) (k : Config) (n : Nat) : List Call :=
  ((List.finRange 56).take n).flatMap fun c => bitCalls m k c ++ clkCalls k c

theorem cellCalls_succ (m : Message) (k : Config) {n : Nat} (hn : n < 56) :
    cellCalls m k (n + 1) = cellCalls m k n ++ (bitCalls m k ⟨n, hn⟩ ++ clkCalls k ⟨n, hn⟩) := by
  simp [cellCalls, finRange_take_succ hn]

theorem SessionAt.cells (h : SessionAt k ⟨.bit, 0, r, m⟩ t) : ∀ (n : Nat) (hn : n < 56),
    ExpiresCalling (2 * n) t (cellCalls m k n) (SessionAt k ⟨.bit, ⟨n, hn⟩, r, m⟩) := by
  intro n
  induction n with
  | zero => intro _; exact .zero h
  | succ n ih =>
    intro hn
    rw [cellCalls_succ m k (by omega)]
    exact (ih (by omega)).trans fun _ hu => hu.bit.trans (k := 1) fun _ hv => hv.clk_mid hn

/-- A pass is its cells up to the rise of CLOCK that ends the last one (R62, R87). -/
theorem passCalls_eq (m : Message) (k : Config) :
    passCalls m k = cellCalls m k 55 ++ bitCalls m k 55 ++ [.setLine .clock .high] := by
  rw [List.append_assoc]
  exact cellCalls_succ m k (n := 55) (by decide)

/-- A pass up to its last CLK, which the end of the pass decides (R87). -/
theorem SessionAt.pass (h : SessionAt k ⟨.bit, 0, r, m⟩ t) :
    ExpiresCalling 111 t (cellCalls m k 55 ++ bitCalls m k 55) (SessionAt k ⟨.clk, 55, r, m⟩) :=
  (h.cells 55 (by decide)).trans (n := 110) fun _ hu => hu.bit

/-- The end of the first pass: CLK and RGAP (R107). -/
theorem SessionAt.firstPassEnd (h : SessionAt k ⟨.clk, 55, false, m⟩ t) :
    ExpiresCalling 1 t [.setLine .clock .high, .armTimer k.t40] (SessionAt k ⟨.renLo, 0, true, m⟩) := by
  have hstep := exec_expire_firstPassEnd h.inv.legalBuild (h.armed rfl) (by rw [h.session]) (by rw [h.session]; rfl)
    (by rw [h.session])
  have := h.expire hstep (y := ⟨.renLo, 0, true, m⟩) (by simp [h.session])
  simpa [List.filter_cons, isTxCall, filter_clockCalls, h.config] using this

/-- The last CLK of the second pass with no end hold: CLK, END and REST (D7). -/
theorem SessionAt.secondPassEnd (h : SessionAt k ⟨.clk, 55, true, m⟩ t) (hhold : k.tEndHold = 0) :
    ExpiresCalling 1 t (.setLine .clock .high :: closingCalls) (SessionAt k ⟨.rest, 0, false, m⟩) := by
  have hstep := exec_expire_secondPassEnd (h.armed rfl) (by rw [h.session]) (by rw [h.session]; rfl)
    (by rw [h.session]) (h.config ▸ hhold)
  have := h.expire hstep (y := ⟨.rest, 0, false, m⟩) (by simp [h.session])
  simpa [filter_clockCalls, show closingCalls.filter isTxCall = closingCalls from rfl] using this

/-- The last CLK of the second pass with an end hold: END waits (D7). -/
theorem SessionAt.secondPassEnd_hold (h : SessionAt k ⟨.clk, 55, true, m⟩ t) (hhold : 0 < k.tEndHold) :
    ExpiresCalling 1 t [.setLine .clock .high, .armTimer k.tEndHold] (SessionAt k ⟨.endSeq, 0, true, m⟩) := by
  have hstep := exec_expire_secondPassEnd_hold h.inv.legalBuild (h.armed rfl) (by rw [h.session])
    (by rw [h.session]; rfl) (by rw [h.session]) (h.config ▸ hhold)
  have := h.expire hstep (y := ⟨.endSeq, 0, true, m⟩) (by simp [h.session])
  simpa [List.filter_cons, isTxCall, filter_clockCalls, h.config] using this

/-- END and REST after the hold (R110, R100). -/
theorem SessionAt.endSeq (h : SessionAt k ⟨.endSeq, 0, true, m⟩ t) :
    ExpiresCalling 1 t closingCalls (SessionAt k ⟨.rest, 0, false, m⟩) := by
  have hlines : t.lines = linesBefore t.tx := h.inv.linesMatchState (by rw [h.session]; nofun)
  exact h.expire (exec_expire_end (h.armed rfl) (by rw [h.session]) (by rw [hlines, h.session]; rfl))
    (by simp [h.session])

theorem t60_pos {c : Config} (h : c.wf = true) : 0 < c.t60 := by
  obtain ⟨-, ⟨hpos, -⟩, -⟩ := (wf_iff c).1 h
  exact hpos

theorem t100_pos {c : Config} (h : c.wf = true) : 0 < c.t100 := by
  obtain ⟨-, -, -, ⟨hpos, -⟩, -⟩ := (wf_iff c).1 h
  exact hpos

/-- The framing before the first pass (R62, steps 1 to 3). -/
theorem SessionAt.opening (h : SessionAt k ⟨.enHiA, 0, false, m⟩ t) :
    ExpiresCalling 3 t ((openingCalls k).drop 4) (SessionAt k ⟨.bit, 0, false, m⟩) :=
  ((h.framing (fun _ => rfl) rfl fun _ => t100_pos).trans fun _ hu =>
    hu.framing (x := .enLoA) (fun _ => rfl) rfl fun _ => t100_pos).trans fun _ hv =>
      hv.framing (x := .enHiB) (fun _ => rfl) rfl fun _ => t60_pos

/-- The reframing between the passes (R62, steps 117 and 118). -/
theorem SessionAt.reframing (h : SessionAt k ⟨.renLo, 0, true, m⟩ t) :
    ExpiresCalling 2 t ((reframeCalls k).drop 1) (SessionAt k ⟨.bit, 0, true, m⟩) :=
  (h.framing (fun _ => rfl) rfl fun _ => t100_pos).trans fun _ hu =>
    hu.framing (x := .renHi) (fun _ => rfl) rfl fun _ => t60_pos

/-- The first pass and the gap behind it, up to the second pass (R62, steps 4 to 118). -/
theorem SessionAt.firstPass (h : SessionAt k ⟨.bit, 0, false, m⟩ t) :
    ExpiresCalling 114 t (passCalls m k ++ reframeCalls k) (SessionAt k ⟨.bit, 0, true, m⟩) := by
  have := (h.pass.trans fun _ hu => hu.firstPassEnd).trans fun _ hv => hv.reframing
  simpa [passCalls_eq, reframeCalls] using this

/-- The second pass and the end of the session (R62, steps 119 to 232). -/
theorem SessionAt.secondPass (h : SessionAt k ⟨.bit, 0, true, m⟩ t) :
    ExpiresCalling (if k.tEndHold = 0 then 112 else 113) t (passCalls m k ++ (holdCalls k ++ closingCalls))
      (SessionAt k ⟨.rest, 0, false, m⟩) := by
  rcases Nat.eq_zero_or_pos k.tEndHold with hhold | hhold
  · have := h.pass.trans fun _ hu => hu.secondPassEnd hhold
    simpa [passCalls_eq, holdCalls, hhold] using this
  · have := (h.pass.trans fun _ hu => hu.secondPassEnd_hold hhold).trans fun _ hv => hv.endSeq
    simpa [passCalls_eq, holdCalls, hhold, Nat.ne_of_gt hhold] using this

/-- The EXPIREs of a session make all of the frame but the rest levels and the delay of START (R62, R89). -/
theorem SessionAt.toRest (h : SessionAt k ⟨.enHiA, 0, false, m⟩ t) :
    ExpiresCalling (sessionExpiries k) t ((frameCalls m k).drop 4) (SessionAt k ⟨.rest, 0, false, m⟩) := by
  have hcount : sessionExpiries k = 3 + (114 + if k.tEndHold = 0 then 112 else 113) := by
    by_cases hhold : k.tEndHold = 0 <;> simp [sessionExpiries, hhold]
  have := h.opening.trans fun _ hu => hu.firstPass.trans fun _ hv => hv.secondPass
  rw [hcount]
  simpa [frameCalls, openingCalls] using this

/-- SEND at REST, whole (R80, R101): CLOCK is high already, so nothing is captured. -/
theorem exec_send_at_rest {s : State} (m : Message) (h : Inv s) (hs : s.tx.state = .rest) :
    exec (.send m) s = .next
      { s with
        tx := ⟨.enHiA, 0, false, m⟩
        lines := restLines
        timer := ⟨true, s.config.t100⟩
        port := ⟨(openingCalls s.config).take 4, some .accepted⟩ } := by
  obtain ⟨hidle, htx, -, -⟩ := (inv_iff s).1 h
  obtain ⟨hcursor, hpass, hlines, harmed⟩ := htx.at_rest hs
  have hhigh : s.lines.clock = .high := by rw [hlines]; rfl
  have hroutine := txRoutineFuel_eq_of_delay (n := 2) (x := .start)
    (s := { beginOp s with tx.buffer := m, tx.state := .start }) rfl h.legalBuild harmed (t100_pos h.legalBuild)
  simp only [exec, execSend, if_pos hs, txRoutine, hroutine, andThen_next]
  simp [evaluate, evalStart, setRestLevels_eq, rxAfterClock_same, clockCalls_same, returning, openingCalls,
    hhigh, hcursor, hpass, hidle, beginOp]

/-- A whole session makes the frame, RX's own reads of DATA left out (R62). -/
theorem execAllCalls_session {s : State} (m : Message) (h : Inv s) (hs : s.tx.state = .rest) :
    ∃ calls t, execAllCalls (session m s.config) s = some (calls, t) ∧
      calls.filter isTxCall = frameCalls m s.config ∧ SessionAt s.config ⟨.rest, 0, false, m⟩ t := by
  have hsend := exec_send_at_rest m h hs
  obtain ⟨calls, t, hrun, hcalls, hend⟩ :=
    SessionAt.toRest (m := m) ⟨exec_keeps_inv rfl h hsend, rfl, rfl⟩
  refine ⟨(openingCalls s.config).take 4 ++ calls, t, ?_, ?_, hend⟩
  · simp only [session, execAllCalls, hsend]
    rw [hrun]
    rfl
  · rw [List.filter_append, hcalls]
    rfl

end Sys2Proof.Machine
end

section
/-! What a receiver on the wire makes of the frame (R61, R90). -/

namespace Sys2Proof.Machine

/-- Outside the passes CLOCK does not rise, so the receiver gets nothing (R61). -/
theorem receive_openingCalls (k : Config) (cs : List Call) :
    receive .high .high (openingCalls k ++ cs) = receive .high .high cs := rfl

theorem receive_reframeCalls (k : Config) (d : Level) (cs : List Call) :
    receive .high d (reframeCalls k ++ cs) = receive .high d cs := rfl

theorem receive_end (k : Config) (d : Level) : receive .high d (holdCalls k ++ closingCalls) = [] := by
  rw [holdCalls]
  split <;> rfl

/-- A pass gives the receiver the message's 56 bits (R61). -/
theorem receive_passCalls (m : Message) (k : Config) (d : Level) (cs : List Call) :
    ∃ d', receive .high d (passCalls m k ++ cs) = (messageBits m).toList ++ receive .high d' cs := by
  rw [← map_mbit_finRange]
  exact receive_cells m k _ d cs

/-- The receiver gets the message twice from the frame (R90). -/
theorem receive_frameCalls (m : Message) (k : Config) : receive .high .high (frameCalls m k) = twice m := by
  rw [frameCalls, receive_openingCalls]
  obtain ⟨d, hfirst⟩ := receive_passCalls m k .high
    (reframeCalls k ++ (passCalls m k ++ (holdCalls k ++ closingCalls)))
  obtain ⟨d', hsecond⟩ := receive_passCalls m k d (holdCalls k ++ closingCalls)
  rw [hfirst, receive_reframeCalls, hsecond, receive_end, List.append_nil, twice]

/-- Settles O32: the session's calls are the frame, and the frame holds each bit at one rise of CLOCK per pass. -/
theorem receiverGetsTheMessageTwice : Obligations.ReceiverGetsTheMessageTwice := by
  intro s m h hs
  obtain ⟨-, htx, -, -⟩ := (inv_iff s).1 h
  obtain ⟨-, -, hlines, -⟩ := htx.at_rest hs
  obtain ⟨calls, t, hrun, hcalls, -⟩ := execAllCalls_session m h hs
  refine ⟨calls, t, hrun, ?_⟩
  rw [← receive_filter, hcalls, hlines]
  exact receive_frameCalls m s.config

end Sys2Proof.Machine
end

section
/-! The decoder and the encoder (R64, R70, R71): each inverts the other, and what the decoder refuses. -/

namespace Sys2Proof.Machine

/-- The instruction that evaluates a TX state is a micro-instruction, and there is no other (R64). -/
theorem txState_eq_some_iff {i : Instr} {x : TxState} : i.txState = some x ↔ i = x.instr := by
  constructor
  · intro h
    cases i <;> cases h <;> rfl
  · rintro rfl
    cases x <;> rfl

/-- A TX state's code decodes to its micro-instruction (R64). -/
theorem decodeTxState_code (x : TxState) : decodeTxState x.code = .ok x.instr := by
  rw [decodeTxState, ofCode_code]

/-- An operation's octets decode to it, whatever follows them (R71). -/
theorem decodeTrace_encodeTrace {i : Instr} (hi : i.txState = none) (rest : List Octet) :
    decodeTrace (encodeTrace i ++ rest) = .ok (i, rest) := by
  cases i with
  | send m => exact congrArg (fun m' => Except.ok (Instr.send m', rest)) (message_eta m)
  | reset | expire | edgeL | edgeH | poll | pbegin | pcmp | pend | busoff | buson => rfl
  | txRest | txStart | txEnHiA | txEnLoA | txEnHiB | txBit | txClk | txRgap | txRenLo | txRenHi | txEnd
  | txDisabled => cases hi

/-- Settles O2: a TX state by its code, an operation by its octets. -/
theorem decodeEncodeAgree : Obligations.DecodeEncodeAgree := by
  intro i _
  refine ⟨?_, decodeTrace_encodeTrace⟩
  cases hi : i.txState with
  | none =>
    have hdecode := decodeTrace_encodeTrace hi []
    rw [List.append_nil] at hdecode
    simp only [encode, hi, decode, hdecode]
  | some x =>
    obtain rfl := txState_eq_some_iff.1 hi
    simp only [encode, hi, decode, decodeTxState_code]

/-- Seven octets are the operand of a SEND (R71). -/
theorem decodeSend_eq_ok {bs rest : List Octet} {i : Instr} (h : decodeSend bs = .ok (i, rest)) :
    0x01 :: bs = encodeTrace i ++ rest := by
  rw [decodeSend.eq_def] at h
  split at h
  next => cases h; rfl
  next => cases h

/-- What decodes to an operation starts with the octets of that operation (R70, R71). -/
theorem decodeTrace_eq_ok {bs rest : List Octet} {i : Instr} (h : decodeTrace bs = .ok (i, rest)) :
    bs = encodeTrace i ++ rest := by
  cases bs with
  | nil => cases h
  | cons o r =>
    have hopcode : ∀ {n : Nat}, o.toNat = n → o = BitVec.ofNat 8 n := by
      rintro _ rfl
      rw [BitVec.ofNat_toNat, BitVec.setWidth_eq]
    simp only [decodeTrace] at h
    split at h
    case h_2 ho => rw [hopcode ho]; exact decodeSend_eq_ok h
    case h_12 => cases h
    all_goals
      next ho =>
        cases h
        rw [hopcode ho]
        rfl

theorem encodeTrace_ne_nil {i : Instr} (hi : i.txState = none) : encodeTrace i ≠ [] := by
  intro h
  simpa [h, decodeTrace] using decodeTrace_encodeTrace hi []

/-- What decodes, with whatever fuel, is a list of operations and their joined octets. -/
theorem decodeAllFuel_eq_ok : ∀ (n : Nat) {bs : List Octet} {ops : List Instr}, decodeAllFuel n bs = .ok ops →
    (∀ i ∈ ops, i.txState = none) ∧ bs = ops.flatMap encodeTrace := by
  intro n
  induction n with
  | zero =>
    intro bs ops h
    cases bs with
    | nil => cases h; exact ⟨nofun, rfl⟩
    | cons o r => cases h
  | succ n ih =>
    intro bs ops h
    cases bs with
    | nil => cases h; exact ⟨nofun, rfl⟩
    | cons o r =>
      rw [decodeAllFuel] at h
      split at h
      next => cases h
      next i rest hfirst =>
        split at h
        next => cases h
        next is hrest =>
          cases h
          obtain ⟨hall, rfl⟩ := ih hrest
          exact ⟨List.forall_mem_cons.2 ⟨decodeTrace_txState hfirst, hall⟩, decodeTrace_eq_ok hfirst⟩

/-- The joined octets of a list of operations decode to it: every operation takes an octet, so there is fuel enough
in their number. -/
theorem decodeAllFuel_flatMap : ∀ {ops : List Instr} {n : Nat}, (∀ i ∈ ops, i.txState = none) →
    (ops.flatMap encodeTrace).length ≤ n → decodeAllFuel n (ops.flatMap encodeTrace) = .ok ops := by
  intro ops
  induction ops with
  | nil => intro n _ _; cases n <;> rfl
  | cons i is ih =>
    intro n hall hn
    obtain ⟨hi, his⟩ := List.forall_mem_cons.1 hall
    have hfirst := decodeTrace_encodeTrace hi (is.flatMap encodeTrace)
    rw [List.flatMap_cons] at hn ⊢
    obtain ⟨o, r, hcode⟩ := List.exists_cons_of_ne_nil (encodeTrace_ne_nil hi)
    rw [hcode, List.cons_append] at hfirst hn ⊢
    cases n with
    | zero => cases hn
    | succ n =>
      simp only [List.length_cons, List.length_append] at hn
      simp only [decodeAllFuel, hfirst, ih his (by omega : _ ≤ n)]

/-- Settles O3: by induction on the fuel one way, on the list of operations the other. -/
theorem traceIsItsOperations : Obligations.TraceIsItsOperations := by
  intro bs ops
  constructor
  · exact decodeAllFuel_eq_ok bs.length
  · rintro ⟨hall, rfl⟩
    exact decodeAllFuel_flatMap hall (Nat.le_refl _)

end Sys2Proof.Machine
end

section
/-! What a step fetches (R70, R156): the micro-instruction of a routine under way, the next operation of the trace, or
nothing, and what it refuses to fetch. -/

namespace Sys2Proof.Machine

/-- Inside an operation a step is the micro-instruction of `tx.state` (log 9). -/
theorem step_of_routineActive {s : State} (h : s.routineActive = true) : step s = exec s.tx.state.instr s := by
  rw [step, if_pos h, decodeTxState_code]

theorem step_of_empty {s : State} (hidle : s.routineActive = false) (hempty : s.trace = []) :
    step s = .next (idle s) := by
  rw [step, if_neg (by simp [hidle]), hempty]

theorem step_of_undecodable {s : State} {o : Octet} {rest : List Octet} {e : DecodeError}
    (hidle : s.routineActive = false) (htrace : s.trace = o :: rest) (h : decodeTrace (o :: rest) = .error e) :
    step s = .refused (.undecodable e) := by
  simp only [step, hidle, htrace, h, Bool.false_eq_true, if_false]

/-- Between operations a step runs the next operation of the trace, if the schedule admits it (R156). -/
theorem step_of_decodeTrace {s : State} {i : Instr} {rest : List Octet} (hidle : s.routineActive = false)
    (h : decodeTrace s.trace = .ok (i, rest)) :
    step s =
      if scheduleAdmits i s then exec i { s with trace := rest } else .refused .taskOperationInsideScan := by
  rw [step, if_neg (by simp [hidle])]
  split
  next hempty => rw [hempty] at h; cases h
  next htrace => rw [htrace] at h; simp only [h]

theorem decodeTrace_reserved {o : Octet} (rest : List Octet) (ho : o = 0x03 ∨ 0x0C ≤ o.toNat) :
    decodeTrace (o :: rest) = .error (.reservedOpcode o) := by
  obtain rfl | ho := ho
  · rfl
  · rw [decodeTrace]
    split
    case h_12 => rfl
    all_goals omega

/-- A SEND with fewer than 7 octets behind it (R70). -/
theorem decodeTrace_truncatedSend {rest : List Octet} (h : rest.length < 7) :
    decodeTrace (0x01 :: rest) = .error (.truncatedSend rest.length) := by
  rw [show decodeTrace (0x01 :: rest) = decodeSend rest from rfl, decodeSend.eq_def]
  split
  next => simp only [List.length_cons] at h; omega
  next => rfl

/-- Settles O4. -/
theorem reservedOpcodesAreRefused : Obligations.ReservedOpcodesAreRefused :=
  ⟨fun _ rest ho => ⟨decodeTrace_reserved rest ho,
      fun _ hidle htrace => step_of_undecodable hidle htrace (decodeTrace_reserved rest ho)⟩,
    fun _ hshort => ⟨decodeTrace_truncatedSend hshort,
      fun _ hidle htrace => step_of_undecodable hidle htrace (decodeTrace_truncatedSend hshort)⟩⟩

/-- Settles O1: each word by computation. -/
theorem writtenWordsDecode : Obligations.WrittenWordsDecode :=
  ⟨rfl, rfl, rfl, rfl, rfl, rfl, rfl, rfl, rfl, rfl, rfl⟩

/-- Settles O10: outside a scan the schedule admits every operation. -/
theorem stepRunsTheNextOperation : Obligations.StepRunsTheNextOperation := by
  intro s i rest hidle hdecode
  have hadmitted : scheduleAdmits i s = true → step s = exec i { s with trace := rest } :=
    fun hadmits => (step_of_decodeTrace hidle hdecode).trans (if_pos hadmits)
  exact ⟨fun hscan => hadmitted (by simp [scheduleAdmits, hscan]), hadmitted⟩

/-- Settles O11. -/
theorem stepRunsTheSequencer : Obligations.StepRunsTheSequencer := fun _ => step_of_routineActive

/-- Settles O12. -/
theorem idleStepIsOneTick : Obligations.IdleStepIsOneTick := by
  intro s hidle hempty
  rw [step_of_empty hidle hempty, idle, tick_eq, tick_timer]
  rfl

/-- Settles O13: inside a scan the schedule holds back the task operations that are no step of a poll. -/
theorem taskWaitsForItsScan : Obligations.TaskWaitsForItsScan := by
  intro s i rest hidle hscan hdecode
  rw [step_of_decodeTrace hidle hdecode]
  refine ⟨fun hi => if_neg ?_, fun hi => if_pos ?_⟩
  · obtain ⟨m, rfl⟩ | rfl | rfl := hi <;> simp [scheduleAdmits, contextOf, agentOf, isPollStep, hscan]
  · obtain rfl | rfl | rfl | rfl | rfl | rfl := hi <;> simp [scheduleAdmits, contextOf, agentOf, isPollStep]

end Sys2Proof.Machine
end

section
/-! Messages and sessions as words: `Pack` (R63), the port form (R166) and the session word (R65). -/

namespace Sys2Proof.Machine

/-- Settles O5. -/
theorem packInvertsMessageBits : Obligations.PackInvertsMessageBits := by
  refine ⟨fun v i => ?_, pack_messageBits⟩
  simpa [messageBits] using congrArg (·[i]) (messageBits_pack v)

/-- Port bit `55 - c` is message bit `c` (R166): each octet of the word, and each place in it. -/
theorem messageWord_bit (m : Message) (c : Fin 56) : (messageWord m).getLsbD (55 - c.val) = mbit m c := by
  obtain ⟨q, r, rfl⟩ := exists_octet_place c
  have hr := r.isLt
  rw [mbit_at]
  match q with
  | 0 | 1 | 2 | 3 | 4 | 5 | 6 =>
    simp only [messageWord, BitVec.getLsbD_append]
    grind

theorem messageOfWord_bit (w : BitVec 56) (c : Fin 56) : mbit (messageOfWord w) c = w.getLsbD (55 - c.val) := by
  obtain ⟨q, r, rfl⟩ := exists_octet_place c
  have hbit : ∀ k, (w.extractLsb' k 8).getLsbD (7 - r.val) = w.getLsbD (k + (7 - r.val)) := by
    intro k
    rw [BitVec.getLsbD_extractLsb', decide_eq_true (by omega), Bool.true_and]
  have hr := r.isLt
  rw [mbit_at]
  match q with
  | 0 | 1 | 2 | 3 | 4 | 5 | 6 => exact (hbit _).trans (congrArg w.getLsbD (by simp only [Fin.isValue]; omega))

/-- Settles O6: the port form and the message have the same 56 bits. -/
theorem portWordHoldsMessageBits : Obligations.PortWordHoldsMessageBits := by
  refine ⟨messageWord_bit, fun m => message_ext_bits fun c => ?_, fun w => BitVec.eq_of_getLsbD_eq fun j hj => ?_⟩
  · rw [messageOfWord_bit, messageWord_bit]
  · have hplace : j = 55 - (⟨55 - j, by omega⟩ : Fin 56).val := by simp only; omega
    rw [hplace, messageWord_bit, messageOfWord_bit]

/-- The three fields of a session word (R65). -/
theorem sessionWord_state (t : TxSession) : (sessionWord t).extractLsb' 0 4 = t.state.code :=
  BitVec.extractLsb'_append_eq_right

theorem sessionWord_cursor (t : TxSession) : (sessionWord t).extractLsb' 4 6 = BitVec.ofNat 6 t.bitCursor.val :=
  (BitVec.extractLsb'_append_eq_of_le (Nat.le_refl 4)).trans BitVec.extractLsb'_append_eq_right

theorem sessionWord_pass (t : TxSession) : (sessionWord t).getLsbD 10 = t.repeatFlag := by
  rw [sessionWord, BitVec.getLsbD_append, if_neg (by decide), BitVec.getLsbD_append, if_neg (by decide)]
  simp

/-- The session a word names, field by field (R65, R69). -/
theorem sessionOfWord_eq_some_iff {w : BitVec 11} {x : TxState} {c : Fin 56} {r : Bool} :
    sessionOfWord w = some (x, c, r) ↔
      TxState.ofCode (w.extractLsb' 0 4) = some x ∧ (w.extractLsb' 4 6).toNat = c.val ∧ w.getLsbD 10 = r := by
  rw [sessionOfWord]
  cases TxState.ofCode (w.extractLsb' 0 4) with
  | none => simp
  | some y =>
    have hc := c.isLt
    generalize (w.extractLsb' 4 6).toNat = k
    by_cases hk : k < 56
    · simp [hk, Fin.ext_iff]
    · simp [hk, show k ≠ c.val by omega]

/-- A session word is its three fields. -/
theorem word_eq_fields (w : BitVec 11) :
    BitVec.ofBool (w.getLsbD 10) ++ w.extractLsb' 4 6 ++ w.extractLsb' 0 4 = w := by
  ext j hj
  refine Eq.trans ?_ (BitVec.getLsbD_eq_getElem hj)
  simp only [BitVec.getElem_append, BitVec.getElem_extractLsb', BitVec.getElem_ofBool]
  split
  · rw [Nat.zero_add]
  · split <;> congr 1 <;> omega

/-- Settles O7. -/
theorem sessionWordHoldsFields : Obligations.SessionWordHoldsFields := by
  refine ⟨fun t => ?_, fun w => ?_, fun w x c r m h => ?_⟩
  · rw [sessionOfWord_eq_some_iff, sessionWord_state, sessionWord_cursor]
    refine ⟨ofCode_code _, ?_, sessionWord_pass t⟩
    exact Nat.mod_eq_of_lt (by omega)
  · rw [← ofCode_eq_none_iff, sessionOfWord]
    cases TxState.ofCode (w.extractLsb' 0 4) with
    | none => simp
    | some y => simp
  · obtain ⟨hx, hc, rfl⟩ := sessionOfWord_eq_some_iff.1 h
    conv_rhs => rw [← word_eq_fields w]
    rw [sessionWord, code_of_ofCode hx, ← hc, BitVec.ofNat_toNat, BitVec.setWidth_eq]

end Sys2Proof.Machine
end

section
/-! RESET (R30, R180), and the whole next states of the framing, the reframing, END and DISABLED (R102 to R111). -/

namespace Sys2Proof.Machine

/-- Settles O8: the table, with the two rows that `RESET_TX_STATE` decides. -/
theorem resetLeavesTheTable : Obligations.ResetLeavesTheTable := by
  intro s
  refine ⟨_, rfl, ?_, ?_, rfl, rfl, rfl, rfl, rfl, fun j => ?_, rfl, rfl, rfl, rfl, rfl, rfl, rfl, rfl, fun j => ?_,
    rfl, rfl, rfl, rfl⟩
  · intro hc
    simp only [State.resetOf, hc, restLines, and_self]
  · intro hc
    simp only [State.resetOf, hc, and_self]
  · simp [ringRead, State.resetOf]
  · simp [State.resetOf]

/-- Settles O9: at rest, with no scan active and no message yet. -/
theorem invHoldsAtReset : Obligations.InvHoldsAtReset :=
  (inv_iff _).2 ⟨rfl, .of_rest (by decide) (.inl rfl) rfl rfl (fun _ => rfl) nofun rfl, .of_inactive rfl, nofun, rfl⟩

/-- A framing state moves ENABLE, waits and changes nothing else (R102 to R104, R108, R109). -/
theorem exec_framing {x y : TxState} {v : Level} {d : Nat} {s : State} (hwf : s.config.wf = true)
    (harmed : s.timer.armed = false) (heval : evaluate x s = ⟨setEnable v s, y, d⟩) (hpos : 0 < d) :
    exec x.instr s = .next
      { s with
        tx.state := y, lines.enable := v, timer := ⟨true, d⟩, routineActive := false
        port.calls := s.port.calls ++ [.setLine .enable v, .armTimer d] } := by
  rw [exec_instr, routineTurn_of_delay hwf harmed (by rw [heval]; exact hpos), heval]
  simp

theorem t40_pos {c : Config} (h : c.wf = true) : 0 < c.t40 := by
  obtain ⟨⟨hpos, -⟩, -⟩ := (wf_iff c).1 h
  exact hpos

theorem t65_pos {c : Config} (h : c.wf = true) : 0 < c.t65 := by
  obtain ⟨-, -, ⟨hpos, -⟩, -⟩ := (wf_iff c).1 h
  exact hpos

/-- Settles O16. -/
theorem framingStatesMoveEnable : Obligations.FramingStatesMoveEnable := fun _ hwf harmed =>
  ⟨exec_framing (x := .enHiA) hwf harmed rfl (t100_pos hwf), exec_framing (x := .enLoA) hwf harmed rfl (t100_pos hwf),
    exec_framing (x := .enHiB) hwf harmed rfl (t60_pos hwf)⟩

/-- TX.RGAP, whole (R107). -/
theorem exec_txRgap {s : State} (hwf : s.config.wf = true) (harmed : s.timer.armed = false) :
    exec .txRgap s = .next
      { s with
        tx.state := .renLo, timer := ⟨true, s.config.t40⟩, routineActive := false
        port.calls := s.port.calls ++ [.armTimer s.config.t40] } :=
  (exec_instr .rgap s).trans (routineTurn_of_delay hwf harmed (t40_pos hwf))

/-- Settles O20. -/
theorem reframeStatesMoveEnable : Obligations.ReframeStatesMoveEnable := fun _ hwf harmed =>
  ⟨exec_txRgap hwf harmed, exec_framing (x := .renLo) hwf harmed rfl (t100_pos hwf),
    exec_framing (x := .renHi) hwf harmed rfl (t60_pos hwf)⟩

/-- Settles O21: two turns without a delay, of which DISABLED's is its own successor. -/
theorem endEmitsTheHookDisabledNothing : Obligations.EndEmitsTheHookDisabledNothing := by
  intro s
  rw [show exec .txEnd s = _ from (exec_instr .endSeq s).trans (routineTurn_immediate rfl),
    show exec .txDisabled s = _ from (exec_instr .disabled s).trans (routineTurn_immediate rfl)]
  simp [evaluate, evalEnd, evalDisabled, emitHook, setData, setEnable, record]

end Sys2Proof.Machine
end

section
/-! The TX routine always ends, and is the TX sequencer run to the end (R84, log 9). -/

namespace Sys2Proof.Machine

/-- How many turns the routine takes at most from a TX state (R84): CLK may go on to END, and END to REST. -/
def turnsFrom : TxState → Nat
  | .clk => 3
  | .endSeq => 2
  | .rest | .start | .enHiA | .enLoA | .enHiB | .bit | .rgap | .renLo | .renHi | .disabled => 1

/-- In a legal build a turn without a delay that is not its own successor goes on to a state with fewer turns left. -/
theorem evaluate_turnsFrom {x : TxState} {s : State} (hwf : s.config.wf = true) (hdelay : (evaluate x s).delay = 0)
    (hnext : (evaluate x s).next ≠ x) : turnsFrom (evaluate x s).next < turnsFrom x := by
  cases x with
  | rest | disabled => exact absurd rfl hnext
  | endSeq => exact Nat.lt_succ_self 1
  | clk =>
    rw [show evaluate .clk s = evalClk s from rfl] at hdelay ⊢
    obtain ⟨_, hrow⟩ | ⟨_, _, hrow⟩ | ⟨_, _, hrow⟩ := evalClk_rows s <;> rw [hrow] at hdelay ⊢
    · exact absurd hdelay (Nat.ne_of_gt (t65_pos hwf))
    · exact (by decide : turnsFrom .rgap < turnsFrom .clk)
    · exact (by decide : turnsFrom .endSeq < turnsFrom .clk)
  | start | enHiA | enLoA | renLo => exact absurd hdelay (Nat.ne_of_gt (t100_pos hwf))
  | enHiB | renHi => exact absurd hdelay (Nat.ne_of_gt (t60_pos hwf))
  | bit | rgap => exact absurd hdelay (Nat.ne_of_gt (t40_pos hwf))

/-- In a legal build the routine ends within the turns it takes at most, from a disarmed timer (R84). -/
theorem txRoutineFuel_ok : ∀ (n : Nat) {s : State}, s.config.wf = true → s.timer.armed = false →
    turnsFrom s.tx.state ≤ n → ∃ t, txRoutineFuel n s = .next t := by
  intro n
  induction n with
  | zero => intro s _ _ h; cases hx : s.tx.state <;> simp [hx, turnsFrom] at h
  | succ n ih =>
    intro s hwf harmed h
    by_cases hend : 0 < (evaluate s.tx.state s).delay ∨ (evaluate s.tx.state s).next = s.tx.state
    · exact txRoutineFuel_terminal hwf harmed hend
    · obtain ⟨hdelay, hnext⟩ := not_or.1 hend
      have hdelay := Nat.eq_zero_of_not_pos hdelay
      obtain ⟨hconfig, -, -, -, -, -, -, htimer, -⟩ := evaluate_frame s.tx.state s
      have hless := evaluate_turnsFrom hwf hdelay hnext
      rw [txRoutineFuel_immediate hdelay hnext]
      exact ih (hconfig ▸ hwf) (htimer harmed ▸ harmed) (by simp only; omega)

theorem txRoutine_ok {s : State} (hwf : s.config.wf = true) (harmed : s.timer.armed = false) :
    ∃ t, txRoutine s = .next t :=
  txRoutineFuel_ok 3 hwf harmed (by cases s.tx.state <;> decide)

/-- What the routine answers, the sequencer's steps lead to, as many as the routine has fuel for (R84, log 9). -/
theorem runSequencer_of_txRoutineFuel : ∀ (n : Nat) {s t : State}, txRoutineFuel n s = .next t →
    runSequencer n { s with routineActive := true } = .next t ∧ t.routineActive = false := by
  intro n
  induction n with
  | zero => intro s t h; cases h
  | succ n ih =>
    intro s t h
    obtain ⟨u, hu, hrest⟩ := andThen_eq_next.1 h
    have hstep : step { s with routineActive := true } = .next u := by
      rw [step_of_routineActive rfl, exec_instr, routineTurn_active, hu]
    rw [runSequencer, if_pos rfl, hstep, andThen_next]
    cases hact : u.routineActive with
    | true =>
      rw [if_pos hact] at hrest
      have hsame : { u with routineActive := true } = u := by rw [← hact]
      exact hsame ▸ ih hrest
    | false =>
      rw [hact] at hrest
      cases hrest
      refine ⟨?_, hact⟩
      cases n with
      | zero => rfl
      | succ n => exact if_neg (by simp [hact])

/-- An EXPIRE with the timer armed completes in every legal build (R81). -/
theorem exec_expire_ok {s : State} (hwf : s.config.wf = true) (harmed : s.timer.armed = true) :
    ∃ t, exec .expire s = .next t := by
  rw [exec_expire_armed harmed]
  exact txRoutine_ok hwf rfl

theorem exec_expire_refused {s : State} (harmed : s.timer.armed = false) :
    exec .expire s = .refused .expireNotArmed :=
  if_neg (by simp [harmed])

/-- Settles O24. -/
theorem expireNeedsAnArmedTimer : Obligations.ExpireNeedsAnArmedTimer :=
  ⟨fun _ => exec_expire_refused, fun _ h harmed => exec_expire_ok h.legalBuild harmed⟩

/-- SEND at REST runs the routine from START, with the message in the buffer (R80). -/
theorem exec_send_of_txRoutine {s t : State} {m : Message} (hs : s.tx.state = .rest)
    (h : txRoutine { beginOp s with tx.buffer := m, tx.state := .start } = .next t) :
    exec (.send m) s = .next (returning .accepted t) := by
  simp only [exec, execSend, if_pos hs, h, andThen_next]

/-- BUSON while DISABLED runs the routine from REST (R83). -/
theorem exec_buson_of_txRoutine {s t : State} (hs : s.tx.state = .disabled)
    (h : txRoutine { beginOp s with tx.state := .rest } = .next t) :
    exec .buson s = .next (returning .accepted t) := by
  simp only [exec, execBuson, if_pos hs, h, andThen_next]

/-- Settles O29: the three callers hand the routine a state from which it ends. -/
theorem routineIsTheSequencer : Obligations.RoutineIsTheSequencer := by
  refine ⟨fun s hwf harmed => ?_, fun s m hwf harmed hs => ?_, fun s hs => ?_⟩
  · obtain ⟨t, ht⟩ := txRoutine_ok (s := afterExpiry s) hwf rfl
    exact ⟨t, (exec_expire_armed harmed).trans ht, runSequencer_of_txRoutineFuel 3 ht⟩
  · obtain ⟨t, ht⟩ := txRoutine_ok (s := { beginOp s with tx.buffer := m, tx.state := .start }) hwf harmed
    exact ⟨t, exec_send_of_txRoutine hs ht, runSequencer_of_txRoutineFuel 3 ht⟩
  · have ht := (txRoutineFuel_rest (n := 2) (s := { beginOp s with tx.state := .rest }) rfl).trans (exec_txRest _)
    exact ⟨_, exec_buson_of_txRoutine hs ht, runSequencer_of_txRoutineFuel 3 ht⟩

end Sys2Proof.Machine
end

section
/-! SEND at rest, and the EXPIRE of a state with a delay (R80, R81). -/

namespace Sys2Proof.Machine

/-- Settles O14. -/
theorem sendAtRestStartsASession : Obligations.SendAtRestStartsASession := fun _ m => exec_send_at_rest m

/-- EXPIRE makes the one evaluation of a state with a delay, and suspends (R81, R84). -/
theorem exec_expire_evaluates {s : State} (hwf : s.config.wf = true) (harmed : s.timer.armed = true)
    (hdelay : 0 < (evaluate s.tx.state (afterExpiry s)).delay) :
    ∃ t, exec .expire s = .next t ∧ exec s.tx.state.instr (afterExpiry s) = .next t ∧ t.timer.armed = true ∧
      t.port.result = none := by
  obtain ⟨-, -, -, -, -, -, hresult, -⟩ := evaluate_frame s.tx.state (afterExpiry s)
  exact ⟨_, exec_expire_of_delay rfl hwf harmed hdelay,
    (exec_instr _ _).trans (routineTurn_of_delay hwf rfl hdelay), rfl, hresult⟩

/-- Settles O22: each of these states has one of the four delays of a legal build. -/
theorem expireEvaluatesTheState : Obligations.ExpireEvaluatesTheState := by
  intro s hwf harmed hx
  refine exec_expire_evaluates hwf harmed ?_
  obtain hx | hx | hx | hx | ⟨hx, hmid⟩ | hx | hx := hx <;> rw [hx]
  · exact t100_pos hwf
  · exact t100_pos hwf
  · exact t60_pos hwf
  · exact t40_pos hwf
  · rw [evaluate, evalClk_mid (s := afterExpiry s) hmid]
    exact t65_pos hwf
  · exact t100_pos hwf
  · exact t60_pos hwf

end Sys2Proof.Machine
end

section
/-! What each kind of instruction leaves alone: EDGE, the steps of a poll, the four operations on TX, and the
micro-instructions. -/

namespace Sys2Proof.Machine

/-- The operations on TX (R80 to R83). -/
def isTxCommand : Instr → Bool
  | .send _ | .expire | .busoff | .buson => true
  | .reset | .edgeL | .edgeH | .poll | .pbegin | .pcmp | .pend => false
  | .txRest | .txStart | .txEnHiA | .txEnLoA | .txEnHiB | .txBit | .txClk | .txRgap | .txRenLo | .txRenHi
  | .txEnd | .txDisabled => false

/-- Every instruction is RESET, an EDGE, a step of a poll, an operation on TX or the evaluation of a TX state. -/
theorem instr_kinds (i : Instr) :
    i = .reset ∨ isEdge i = true ∨ isPollStep i = true ∨ isTxCommand i = true ∨ ∃ x : TxState, i = x.instr := by
  cases hi : i.txState with
  | some x => exact .inr (.inr (.inr (.inr ⟨x, txState_eq_some_iff.1 hi⟩)))
  | none => cases i <;> simp [isEdge, isPollStep, isTxCommand, Instr.txState] at hi ⊢

/-- What the transmitter leaves alone: the build, the trace, the record, and RX unless it is looped back (R125). -/
structure LeavesReceiver (s t : State) : Prop where
  config : t.config = s.config
  trace : t.trace = s.trace
  val : t.val = s.val
  rx : s.config.loopback = false → t.rx = s.rx

theorem LeavesReceiver.of_routineTurn {x : TxState} {s t : State} (h : routineTurn x (evaluate x s) = .next t) :
    LeavesReceiver s t := by
  obtain ⟨hconfig, htrace, hval, -⟩ := routineTurn_frame h
  exact ⟨hconfig, htrace, hval, fun hloop => routineTurn_rx hloop h⟩

theorem LeavesReceiver.of_txRoutine {s t : State} (h : txRoutine s = .next t) : LeavesReceiver s t := by
  obtain ⟨hconfig, htrace, hval, -⟩ := txRoutine_frame h
  exact ⟨hconfig, htrace, hval, fun hloop => txRoutine_rx hloop h⟩

/-- Everything SEND can do when it answers a next state (R80). -/
theorem exec_send_next {m : Message} {s t : State} (h : exec (.send m) s = .next t) :
    (s.tx.state = .rest ∧ ∃ u, txRoutine { beginOp s with tx.buffer := m, tx.state := .start } = .next u ∧
      t = returning .accepted u) ∨
    (s.tx.state ≠ .rest ∧ t = { s with port := ⟨[], some .busy⟩ }) := by
  by_cases hs : s.tx.state = .rest
  · rw [show exec (.send m) s = execSend m s from rfl, execSend, if_pos hs] at h
    exact .inl ⟨hs, andThen_returning h⟩
  · exact .inr ⟨hs, Host.Outcome.next.inj (h.symm.trans (exec_send_busy m hs))⟩

/-- BUSOFF writes `tx.state` alone (R82). -/
theorem exec_busoff_next {s t : State} (h : exec .busoff s = .next t) :
    t = { s with tx.state := t.tx.state, port := t.port } := by
  obtain ⟨hrest, hdisabled, -⟩ := busoffAndBusonSwitchTheBus s
  by_cases hr : s.tx.state = .rest
  · cases (hrest hr).symm.trans h; rfl
  · by_cases hd : s.tx.state = .disabled
    · cases (hdisabled hd).symm.trans h; rfl
    · cases (exec_busoff_busy hr hd).symm.trans h; rfl

/-- Everything BUSON can do when it answers a next state (R83). -/
theorem exec_buson_next {s t : State} (h : exec .buson s = .next t) :
    (s.tx.state = .disabled ∧ ∃ u, txRoutine { beginOp s with tx.state := .rest } = .next u ∧
      t = returning .accepted u) ∨
    (s.tx.state ≠ .disabled ∧ t = { s with port := ⟨[], some .accepted⟩ }) := by
  obtain ⟨-, -, henabled, -⟩ := busoffAndBusonSwitchTheBus s
  by_cases hs : s.tx.state = .disabled
  · rw [show exec .buson s = execBuson s from rfl, execBuson, if_pos hs] at h
    exact .inl ⟨hs, andThen_returning h⟩
  · exact .inr ⟨hs, Host.Outcome.next.inj (h.symm.trans (henabled hs))⟩

/-- An operation on TX leaves the receiver alone, and the buffer too unless it is an accepted SEND (R54). -/
theorem exec_txCommand_frame {i : Instr} {s t : State} (hi : isTxCommand i = true) (h : exec i s = .next t) :
    LeavesReceiver s t ∧
      (t.tx.buffer = s.tx.buffer ∨ ∃ m, i = .send m ∧ s.tx.state = .rest ∧ t.tx.buffer = m) := by
  cases i with
  | send m =>
    obtain ⟨hs, u, hu, rfl⟩ | ⟨-, rfl⟩ := exec_send_next h
    · obtain ⟨-, -, -, -, -, hbuffer, -⟩ := txRoutine_frame hu
      exact ⟨{ LeavesReceiver.of_txRoutine hu with }, .inr ⟨m, rfl, hs, hbuffer⟩⟩
    · exact ⟨⟨rfl, rfl, rfl, fun _ => rfl⟩, .inl rfl⟩
  | expire =>
    have hroutine := exec_expire_next h
    obtain ⟨-, -, -, -, -, hbuffer, -⟩ := txRoutine_frame hroutine
    exact ⟨{ LeavesReceiver.of_txRoutine hroutine with }, .inl hbuffer⟩
  | busoff =>
    rw [exec_busoff_next h]
    exact ⟨⟨rfl, rfl, rfl, fun _ => rfl⟩, .inl rfl⟩
  | buson =>
    obtain ⟨-, u, hu, rfl⟩ | ⟨-, rfl⟩ := exec_buson_next h
    · obtain ⟨-, -, -, -, -, hbuffer, -⟩ := txRoutine_frame hu
      exact ⟨{ LeavesReceiver.of_txRoutine hu with }, .inl hbuffer⟩
    · exact ⟨⟨rfl, rfl, rfl, fun _ => rfl⟩, .inl rfl⟩
  | reset | edgeL | edgeH | poll | pbegin | pcmp | pend | txRest | txStart | txEnHiA | txEnLoA | txEnHiB | txBit
  | txClk | txRgap | txRenLo | txRenHi | txEnd | txDisabled => cases hi

/-- An EDGE is the capture, after the environment has driven the edge (R120). -/
theorem exec_edge {i : Instr} (hi : isEdge i = true) :
    ∃ d, ∀ s, exec i s = .next (capture d (driveEdge d (beginOp s))) := by
  rw [isEdge, Bool.or_eq_true, beq_iff_eq, beq_iff_eq] at hi
  obtain rfl | rfl := hi <;> exact ⟨_, fun _ => rfl⟩

theorem exec_edge_next {i : Instr} {s t : State} (hi : isEdge i = true) (h : exec i s = .next t) :
    ∃ d, t = capture d (driveEdge d (beginOp s)) := by
  obtain ⟨d, hd⟩ := exec_edge hi
  exact ⟨d, Host.Outcome.next.inj (h.symm.trans (hd s))⟩

/-- A step of a poll writes the scan, the dirty flag and the record alone: only a begin clears the flag, and only
the end of a poll that returns a message commits (R131 to R133). -/
theorem exec_pollStep_frame {i : Instr} {s t : State} (hi : isPollStep i = true) (h : exec i s = .next t) :
    t = { s with rx.dirty := t.rx.dirty, scan := t.scan, val := t.val, port := t.port } ∧
      (t.rx.dirty = s.rx.dirty ∨ ((i = .pbegin ∨ i = .poll) ∧ t.rx.dirty = false)) ∧
      (t.val = s.val ∨
        ((i = .pend ∨ i = .poll) ∧ ∃ m, t.port.result = some (.message m) ∧ t.val = (commit m s).val)) := by
  cases i with
  | pbegin =>
    obtain ⟨-, rfl⟩ := scanBegin_next h
    exact ⟨rfl, .inr ⟨.inl rfl, rfl⟩, .inl rfl⟩
  | pcmp => obtain ⟨-, _, ⟨-, rfl⟩ | ⟨-, rfl⟩⟩ := scanCompare_next h <;> exact ⟨rfl, .inl rfl, .inl rfl⟩
  | pend =>
    obtain ⟨-, -, ⟨-, rfl⟩ | ⟨-, rfl⟩⟩ := scanEnd_next h
    · exact ⟨rfl, .inl rfl, .inl rfl⟩
    · exact ⟨rfl, .inl rfl, .inr ⟨.inl rfl, _, rfl, rfl⟩⟩
  | poll =>
    obtain ⟨hframe, -⟩ := exec_poll_frame h
    have hclean : t.rx.dirty = false := congrArg (·.rx.dirty) hframe
    refine ⟨hclean ▸ hframe, .inr ⟨.inr rfl, hclean⟩, ?_⟩
    obtain ⟨-, hval⟩ | hcommit := exec_poll_commits h
    · exact .inl hval
    · exact .inr ⟨.inr rfl, hcommit⟩
  | reset | send _ | expire | edgeL | edgeH | busoff | buson | txRest | txStart | txEnHiA | txEnLoA | txEnHiB | txBit
  | txClk | txRgap | txRenLo | txRenHi | txEnd | txDisabled => cases hi

/-- Settles O27: of the operations on TX SEND alone writes the buffer, and no other kind but RESET does. -/
theorem bufferIsWrittenBySendAlone : Obligations.BufferIsWrittenBySendAlone := by
  intro s t i h
  obtain hi | hi | hi | hi | ⟨x, rfl⟩ := instr_kinds i
  · exact .inr (.inl hi)
  · obtain ⟨d, rfl⟩ := exec_edge_next hi h
    exact .inl rfl
  · obtain ⟨hframe, -⟩ := exec_pollStep_frame hi h
    exact .inl (congrArg (·.tx.buffer) hframe)
  · obtain ⟨-, hsame | hsend⟩ := exec_txCommand_frame hi h
    · exact .inl hsame
    · exact .inr (.inr hsend)
  · rw [exec_instr] at h
    obtain ⟨-, -, -, -, -, hbuffer, -⟩ := routineTurn_frame h
    exact .inl hbuffer

/-- Settles O37: with no `LOOPBACK` no evaluation of a TX state is an EDGE, and no step of a poll writes a cell. -/
theorem ringIsWrittenByEdgeAlone : Obligations.RingIsWrittenByEdgeAlone := by
  intro s t i hloop h
  have hkept : t.rx = s.rx →
      ((t.rx.ring = s.rx.ring ∧ t.rx.cursor = s.rx.cursor) ∨ isEdge i = true ∨ i = .reset) ∧
      (t.rx.dirty = s.rx.dirty ∨ (isEdge i = true ∧ t.rx.dirty = true) ∨
        ((i = .pbegin ∨ i = .poll ∨ i = .reset) ∧ t.rx.dirty = false)) := by
    intro hrx
    rw [hrx]
    exact ⟨.inl ⟨rfl, rfl⟩, .inl rfl⟩
  obtain rfl | hi | hi | hi | ⟨x, rfl⟩ := instr_kinds i
  · cases h
    exact ⟨.inr (.inr rfl), .inr (.inr ⟨.inr (.inr rfl), rfl⟩)⟩
  · exact ⟨.inr (.inl hi), .inr (.inl ⟨hi, exec_edge_dirty hi h⟩)⟩
  · obtain ⟨hframe, hdirty, -⟩ := exec_pollStep_frame hi h
    refine ⟨.inl ⟨congrArg (·.rx.ring) hframe, congrArg (·.rx.cursor) hframe⟩, ?_⟩
    obtain hsame | ⟨hbegin | hpoll, hclean⟩ := hdirty
    · exact .inl hsame
    · exact .inr (.inr ⟨.inl hbegin, hclean⟩)
    · exact .inr (.inr ⟨.inr (.inl hpoll), hclean⟩)
  · obtain ⟨hleaves, -⟩ := exec_txCommand_frame hi h
    exact hkept (hleaves.rx hloop)
  · rw [exec_instr] at h
    exact hkept (routineTurn_rx hloop h)

/-- Settles O48: no kind of instruction but the steps of a poll and RESET writes the record, and a commit makes it
valid. -/
theorem recordIsWrittenByCommitAlone : Obligations.RecordIsWrittenByCommitAlone := by
  intro s t i h
  have hkept : t.val = s.val →
      (t.val = s.val ∨ i = .reset ∨
        ((i = .pend ∨ i = .poll) ∧ ∃ m, t.port.result = some (.message m) ∧ t.val.lastValid = m)) ∧
      (s.val.isValid = true → t.val.isValid = true ∨ i = .reset) :=
    fun hval => ⟨.inl hval, fun hvalid => .inl (hval ▸ hvalid)⟩
  obtain hi | hi | hi | hi | ⟨x, rfl⟩ := instr_kinds i
  · exact ⟨.inr (.inl hi), fun _ => .inr hi⟩
  · obtain ⟨d, rfl⟩ := exec_edge_next hi h
    exact hkept rfl
  · obtain ⟨-, -, hval | ⟨hend, m, hresult, hval⟩⟩ := exec_pollStep_frame hi h
    · exact hkept hval
    · exact ⟨.inr (.inr ⟨hend, m, hresult, by rw [hval]; rfl⟩), fun _ => .inl (by rw [hval]; rfl)⟩
  · obtain ⟨hleaves, -⟩ := exec_txCommand_frame hi h
    exact hkept hleaves.val
  · rw [exec_instr] at h
    exact hkept (LeavesReceiver.of_routineTurn h).val

/-- Settles O54. -/
theorem constantsAreConstant : Obligations.ConstantsAreConstant := by
  intro s t i h
  obtain rfl | hi | hi | hi | ⟨x, rfl⟩ := instr_kinds i
  · cases h
    exact ⟨rfl, rfl⟩
  · obtain ⟨d, rfl⟩ := exec_edge_next hi h
    exact ⟨rfl, rfl⟩
  · obtain ⟨hframe, -⟩ := exec_pollStep_frame hi h
    exact ⟨congrArg (·.config) hframe, congrArg (·.trace) hframe⟩
  · obtain ⟨hleaves, -⟩ := exec_txCommand_frame hi h
    exact ⟨hleaves.config, hleaves.trace⟩
  · rw [exec_instr] at h
    have hleaves := LeavesReceiver.of_routineTurn h
    exact ⟨hleaves.config, hleaves.trace⟩

/-- Settles O26: while DISABLED a SEND is `Busy`, no timer is armed for an EXPIRE, and BUSOFF finds its work done. -/
theorem disabledBusStaysSilent : Obligations.DisabledBusStaysSilent := by
  intro s t i hinv hs hi hbuson hreset h
  obtain hi' | hi' | hi' | hi' | ⟨x, rfl⟩ := instr_kinds i
  · exact absurd hi' hreset
  · obtain ⟨d, rfl⟩ := exec_edge_next hi' h
    exact ⟨rfl, rfl, rfl, rfl⟩
  · obtain ⟨hframe, -⟩ := exec_pollStep_frame hi' h
    rw [hframe]
    exact ⟨rfl, rfl, rfl, rfl⟩
  · cases i with
    | send m =>
      cases (exec_send_busy m (by rw [hs]; nofun)).symm.trans h
      exact ⟨rfl, rfl, rfl, rfl⟩
    | expire =>
      obtain ⟨-, htx, -, -⟩ := (inv_iff s).1 hinv
      cases (exec_expire_refused (htx.disarmed_of_disabled hs)).symm.trans h
    | busoff =>
      obtain ⟨-, hdisabled, -⟩ := busoffAndBusonSwitchTheBus s
      cases (hdisabled hs).symm.trans h
      exact ⟨rfl, rfl, rfl, rfl⟩
    | buson => exact absurd rfl hbuson
    | reset | edgeL | edgeH | poll | pbegin | pcmp | pend | txRest | txStart | txEnHiA | txEnLoA | txEnHiB | txBit
    | txClk | txRgap | txRenLo | txRenHi | txEnd | txDisabled => cases hi'
  · cases x <;> cases hi

end Sys2Proof.Machine
end

section
/-! The steps of a poll as whole next states (R131 to R133), and their refusals by name. -/

namespace Sys2Proof.Machine

/-- Settles O40. -/
theorem pbeginStartsAScan : Obligations.PbeginStartsAScan := fun _ =>
  ⟨fun hidle => if_neg (by simp [hidle]), fun hact => if_pos hact⟩

/-- Settles O45: the poll's PBEGIN is refused, and so the poll. -/
theorem pollInsideAScanIsRefused : Obligations.PollInsideAScanIsRefused := fun s hact =>
  congrArg (andThen · (scanRest 56)) ((pbeginStartsAScan s).2 hact)

/-- An equal pair is kept, and the scan goes on (R132). -/
theorem exec_pcmp_of_agree {s : State} (hact : s.scan.active = true) (hi : s.scan.i.val < 56)
    (hpair : olderBit s s.scan.i.val = newerBit s s.scan.i.val) :
    exec .pcmp s = .next (afterPair (beginOp s) hi) :=
  scanCompare_of_agree (s := beginOp s) hact hi hpair

/-- The cells of a snapshot after a pair of equal bits (R132). -/
theorem afterPair_snap (s : State) (hi : s.scan.i.val < 56) (j : Fin 56) :
    (afterPair s hi).scan.snap[j] = if j.val = s.scan.i.val then newerBit s s.scan.i.val else s.scan.snap[j] := by
  simp only [afterPair, Fin.getElem_fin, Vector.getElem_set, eq_comm (a := s.scan.i.val)]

theorem exec_pcmp_refused {s : State} (h : s.scan.active = false ∨ s.scan.i.val = 56) :
    exec .pcmp s = .refused .pcmpNotAdmitted := by
  refine dif_neg fun hadm : s.scan.active = true ∧ s.scan.i.val < 56 => ?_
  obtain ⟨hact, hi⟩ := hadm
  obtain hidle | hlast := h
  · simp [hidle] at hact
  · omega

/-- Settles O41: the pair decides between the end of the scan and the next pair. -/
theorem pcmpComparesOnePair : Obligations.PcmpComparesOnePair := by
  refine fun s => ⟨fun hact hi => ⟨exec_pcmp_of_disagree hact hi, fun hpair => ?_⟩, exec_pcmp_refused⟩
  refine ⟨_, exec_pcmp_of_agree hact hi hpair, rfl, hact, rfl, rfl, afterPair_snap (beginOp s) hi, ?_, ?_⟩
  · simp only [afterPair, nextSeen0, Bool.or_eq_true, Bool.not_eq_true']
    rfl
  · simp only [afterPair, nextOk01, Bool.or_eq_true, Bool.and_eq_true]
    rfl

/-- A clean end commits the packed snapshot and returns it (R133, R135). -/
theorem exec_pend_of_clean {s : State} (hact : s.scan.active = true) (hi : s.scan.i.val = 56)
    (hok : s.scan.ok01 = true) (hclean : s.rx.dirty = false) :
    exec .pend s = .next
      { s with
        scan.active := false
        val := (commit (pack s.scan.snap) s).val
        port := ⟨[], some (.message (pack s.scan.snap))⟩ } :=
  (if_pos ⟨hact, hi⟩).trans (if_pos (by simp [scanIsClean, hok, hclean]))

theorem exec_pend_refused {s : State} (h : s.scan.active = false ∨ s.scan.i.val < 56) :
    exec .pend s = .refused .pendNotAdmitted := by
  refine if_neg fun hadm : s.scan.active = true ∧ s.scan.i.val = 56 => ?_
  obtain ⟨hact, hi⟩ := hadm
  obtain hidle | hearly := h
  · simp [hidle] at hact
  · omega

/-- Settles O42: the two flags decide whether PEND commits, and `val.last_change` what a commit writes. -/
theorem pendCommitsACleanScan : Obligations.PendCommitsACleanScan := by
  refine fun s => ⟨fun hact hi => ⟨fun hbad => ?_, fun hok hclean => ?_⟩, exec_pend_refused⟩
  · exact exec_pend_of_unclean hact hi ((scanIsClean_eq_false_iff s).2 hbad)
  · refine ⟨_, exec_pend_of_clean hact hi hok hclean, rfl, rfl, rfl, fun hnew => ?_, fun hsame => ?_⟩
    · simp [isChange, hnew]
    · simp [isChange, hsame]

end Sys2Proof.Machine
end

section
/-! The only refusals from a state of the invariant (R17, R84, R161). -/

namespace Sys2Proof.Machine

/-- From the invariant an operation is refused for none but the reasons of its own rule (R81, R131 to R133). -/
theorem exec_refused {i : Instr} {s : State} {r : Refusal} (h : Inv s) (hi : i.txState = none)
    (hrefused : exec i s = .refused r) : isAdmissionRefusal r = true := by
  cases i with
  | send m =>
    by_cases hs : s.tx.state = .rest
    · cases (exec_send_at_rest m h hs).symm.trans hrefused
    · cases (exec_send_busy m hs).symm.trans hrefused
  | expire =>
    cases harmed : s.timer.armed with
    | true =>
      obtain ⟨t, ht⟩ := exec_expire_ok h.legalBuild harmed
      cases ht.symm.trans hrefused
    | false =>
      cases (exec_expire_refused harmed).symm.trans hrefused
      rfl
  | busoff =>
    obtain ⟨hrest, hdisabled, -⟩ := busoffAndBusonSwitchTheBus s
    by_cases hr : s.tx.state = .rest
    · cases (hrest hr).symm.trans hrefused
    · by_cases hd : s.tx.state = .disabled
      · cases (hdisabled hd).symm.trans hrefused
      · cases (exec_busoff_busy hr hd).symm.trans hrefused
  | buson =>
    obtain ⟨-, -, henabled, hdisabled⟩ := busoffAndBusonSwitchTheBus s
    by_cases hd : s.tx.state = .disabled
    · cases (hdisabled hd).symm.trans hrefused
    · cases (henabled hd).symm.trans hrefused
  | poll =>
    cases hact : s.scan.active with
    | true =>
      cases (pollInsideAScanIsRefused s hact).symm.trans hrefused
      rfl
    | false =>
      obtain ⟨t, ht, -⟩ := exec_poll_outcome hact
      cases ht.symm.trans hrefused
  | pbegin =>
    rw [show exec .pbegin s = scanBegin (beginOp s) from rfl, scanBegin] at hrefused
    split at hrefused <;> cases hrefused
    rfl
  | pcmp =>
    rw [show exec .pcmp s = scanCompare (beginOp s) from rfl, scanCompare] at hrefused
    split at hrefused
    next =>
      simp only at hrefused
      split at hrefused <;> cases hrefused
    next => cases hrefused; rfl
  | pend =>
    rw [show exec .pend s = scanEnd (beginOp s) from rfl, scanEnd] at hrefused
    split at hrefused
    next => split at hrefused <;> cases hrefused
    next => cases hrefused; rfl
  | reset | edgeL | edgeH => cases hrefused
  | txRest | txStart | txEnHiA | txEnLoA | txEnHiB | txBit | txClk | txRgap | txRenLo | txRenHi | txEnd
  | txDisabled => cases hi

/-- Settles O53: what a step is refused for is the trace itself, the schedule, or the operation. -/
theorem onlyTheTraceIsRefused : Obligations.OnlyTheTraceIsRefused := by
  intro s r h hrefused
  have hidle := h.betweenOperations
  cases htrace : s.trace with
  | nil => cases (step_of_empty hidle htrace).symm.trans hrefused
  | cons o rest =>
    cases hdecode : decodeTrace s.trace with
    | error e =>
      cases (step_of_undecodable hidle htrace (htrace ▸ hdecode)).symm.trans hrefused
      rfl
    | ok p =>
      obtain ⟨i, rest'⟩ := p
      rw [step_of_decodeTrace hidle hdecode] at hrefused
      split at hrefused
      next => exact exec_refused (h.withTrace rest') (decodeTrace_txState hdecode) hrefused
      next => cases hrefused; rfl

end Sys2Proof.Machine
end

section
/-! The two kinds of EXPIRE (R81, R87): the one that ends the session, and the one that arms the timer again. -/

namespace Sys2Proof.Machine

/-- The EXPIRE to come evaluates END: after the hold, or at the last bit of the second pass with no hold (D7). -/
def EndsSession (s : State) : Prop :=
  s.tx.state = .endSeq ∨
    (s.tx.state = .clk ∧ s.tx.bitCursor.val = 55 ∧ s.tx.repeatFlag = true ∧ s.config.tEndHold = 0)

/-- The calls of a line write and of the capture it may cause (R165). -/
def isLineCall : Call → Bool
  | .setLine _ _ | .readData _ => true
  | .armTimer _ | .disarmTimer | .hook => false

/-- `t` is `s` with its session ended: at rest, disarmed, with one hook more (R88, R110, R100). -/
structure SessionEnded (s t : State) : Prop where
  session : t.tx = ⟨.rest, 0, false, s.tx.buffer⟩
  lines : t.lines = restLines
  timer : t.timer = ⟨false, 0⟩
  hookCount : t.hookCount = s.hookCount + 1
  calls : ∃ cs, (∀ c ∈ cs, isLineCall c = true) ∧ t.port.calls = cs ++ closingCalls

/-- `t` is `s` with its session going on: the timer is armed again, and there is no hook (R84). -/
structure SessionGoesOn (s t : State) : Prop where
  state : t.tx.state ≠ .rest
  armed : t.timer.armed = true
  hookCount : t.hookCount = s.hookCount
  calls : ∃ cs, (∀ c ∈ cs, isLineCall c = true) ∧ t.port.calls = cs ++ [.armTimer t.timer.remaining]

theorem isLineCall_of_mem_clockCalls {v d : Level} {s : State} : ∀ c ∈ clockCalls v d s, isLineCall c = true := by
  rw [clockCalls]
  split <;> simp [isLineCall]

/-- The evaluations of a session but END call for lines alone (R102 to R109). -/
theorem evaluate_calls {x : TxState} (s : State) (hrest : x ≠ .rest) (hend : x ≠ .endSeq) :
    ∃ cs, (∀ c ∈ cs, isLineCall c = true) ∧ (evaluate x s).after.port.calls = s.port.calls ++ cs := by
  cases x with
  | rest => exact absurd rfl hrest
  | endSeq => exact absurd rfl hend
  | clk =>
    refine ⟨clockCalls .high s.lines.data s, isLineCall_of_mem_clockCalls, ?_⟩
    obtain ⟨_, hrow⟩ | ⟨_, _, hrow⟩ | ⟨_, _, hrow⟩ := evalClk_rows s <;> rw [evaluate, hrow] <;> simp
  | bit =>
    refine ⟨.setLine .data (lvl (bufBit s s.tx.bitCursor)) :: clockCalls .low (lvl (bufBit s s.tx.bitCursor)) s,
      List.forall_mem_cons.2 ⟨rfl, isLineCall_of_mem_clockCalls⟩, ?_⟩
    simp [evaluate, evalBit, clockCalls_setData]
  | start =>
    refine ⟨.setLine .enable .low :: (clockCalls .high s.lines.data s ++ [.setLine .data .high]), ?_, ?_⟩
    · simpa [isLineCall, or_imp, forall_and] using isLineCall_of_mem_clockCalls
    · simp [evaluate, evalStart, setRestLevels_eq]
  | enHiA | enLoA | enHiB | renLo | renHi => exact ⟨[.setLine .enable _], by simp [isLineCall], rfl⟩
  | rgap | disabled => exact ⟨[], nofun, by simp [evaluate, evalRgap, evalDisabled]⟩

/-- Of the timed states only END and CLK at bit 55 may have no delay (R87). -/
theorem evaluate_delay_eq_zero {s : State} (hwf : s.config.wf = true) (htimed : isTimed s.tx.state = true)
    (hdelay : (evaluate s.tx.state s).delay = 0) :
    EndsSession s ∨ (s.tx.state = .clk ∧ s.tx.bitCursor.val = 55 ∧ s.tx.repeatFlag = false) := by
  cases hx : s.tx.state with
  | rest | start | rgap | disabled => rw [hx] at htimed; cases htimed
  | endSeq => exact .inl (.inl hx)
  | clk =>
    rw [hx, evaluate] at hdelay
    obtain ⟨_, hrow⟩ | ⟨hlast, hpass, -⟩ | ⟨hlast, hpass, hrow⟩ := evalClk_rows s
    · rw [hrow] at hdelay
      exact absurd hdelay (Nat.ne_of_gt (t65_pos hwf))
    · exact .inr ⟨rfl, congrArg Fin.val hlast, hpass⟩
    · rw [hrow] at hdelay
      exact .inl (.inr ⟨hx, congrArg Fin.val hlast, hpass, hdelay⟩)
  | enHiA | enLoA | renLo => rw [hx] at hdelay; exact absurd hdelay (Nat.ne_of_gt (t100_pos hwf))
  | enHiB | renHi => rw [hx] at hdelay; exact absurd hdelay (Nat.ne_of_gt (t60_pos hwf))
  | bit => rw [hx] at hdelay; exact absurd hdelay (Nat.ne_of_gt (t40_pos hwf))

theorem exec_expire_of_endsSession {s : State} (h : Inv s) (harmed : s.timer.armed = true) (hend : EndsSession s) :
    ∃ t, exec .expire s = .next t ∧ SessionEnded s t := by
  obtain hx | ⟨hx, hlast, hpass, hhold⟩ := hend
  · have hclock : s.lines.clock = .high := by
      rw [h.linesMatchState (by rw [hx]; nofun), linesBefore, hx]
    exact ⟨_, exec_expire_end harmed hx hclock, rfl, rfl, rfl, rfl, [], nofun, rfl⟩
  · exact ⟨_, exec_expire_secondPassEnd harmed hx hlast hpass hhold, rfl, rfl, rfl, rfl, _,
      isLineCall_of_mem_clockCalls, rfl⟩

/-- A state with a delay goes on to a timed state. -/
theorem exec_expire_of_delay_goesOn {s : State} (hwf : s.config.wf = true) (harmed : s.timer.armed = true)
    (hdelay : 0 < (evaluate s.tx.state (afterExpiry s)).delay) :
    ∃ t, exec .expire s = .next t ∧ SessionGoesOn s t := by
  have hne : ∀ {x}, (evaluate x (afterExpiry s)).delay = 0 → s.tx.state ≠ x := by
    rintro _ h0 rfl
    omega
  obtain ⟨htimed, -⟩ := evaluate_timed hdelay
  obtain ⟨cs, hcs, hcalls⟩ := evaluate_calls (afterExpiry s) (hne (x := .rest) rfl) (hne (x := .endSeq) rfl)
  refine ⟨_, exec_expire_of_delay rfl hwf harmed hdelay, ?_, rfl, ?_, cs, hcs, ?_⟩
  · intro hrest
    rw [show (evaluate s.tx.state (afterExpiry s)).next = .rest from hrest] at htimed
    cases htimed
  · exact evaluate_hookCount (afterExpiry s) (hne rfl)
  · rw [hcalls]
    rfl

theorem exec_expire_of_not_endsSession {s : State} (h : Inv s) (harmed : s.timer.armed = true)
    (hend : ¬ EndsSession s) : ∃ t, exec .expire s = .next t ∧ SessionGoesOn s t := by
  rcases Nat.eq_zero_or_pos (evaluate s.tx.state (afterExpiry s)).delay with hdelay | hdelay
  · have htimed : isTimed s.tx.state = true := h.timerMatchesState ▸ harmed
    obtain hends | ⟨hx, hlast, hpass⟩ := evaluate_delay_eq_zero (s := afterExpiry s) h.legalBuild htimed hdelay
    · exact absurd hends hend
    · exact ⟨_, exec_expire_firstPassEnd h.legalBuild harmed hx hlast hpass, nofun, rfl, rfl, _,
        isLineCall_of_mem_clockCalls, rfl⟩
  · exact exec_expire_of_delay_goesOn h.legalBuild harmed hdelay

/-- Everything an EXPIRE can do from the invariant with the timer armed (R81, R87). -/
theorem exec_expire_cases {s : State} (h : Inv s) (harmed : s.timer.armed = true) :
    ∃ t, exec .expire s = .next t ∧
      ((EndsSession s ∧ SessionEnded s t) ∨ (¬ EndsSession s ∧ SessionGoesOn s t)) := by
  by_cases hend : EndsSession s
  · obtain ⟨t, ht, hended⟩ := exec_expire_of_endsSession h harmed hend
    exact ⟨t, ht, .inl ⟨hend, hended⟩⟩
  · obtain ⟨t, ht, hgoes⟩ := exec_expire_of_not_endsSession h harmed hend
    exact ⟨t, ht, .inr ⟨hend, hgoes⟩⟩

/-- The session is over exactly after the EXPIRE that evaluates END. -/
theorem exec_expire_rest_iff {s : State} (h : Inv s) (harmed : s.timer.armed = true) :
    ∃ t, exec .expire s = .next t ∧ (t.tx.state = .rest ↔ EndsSession s) := by
  obtain ⟨t, ht, ⟨hend, hended⟩ | ⟨hend, hgoes⟩⟩ := exec_expire_cases h harmed
  · exact ⟨t, ht, iff_of_true (congrArg TxSession.state hended.session) hend⟩
  · exact ⟨t, ht, iff_of_false hgoes.state hend⟩

/-- Settles O59: EXPIRE does not see the record of a SEND that was `Busy`, and SEND sees only whether it ended the
session. -/
theorem sendAndExpireInEitherOrder : Obligations.SendAndExpireInEitherOrder := by
  intro s m h harmed
  have hbusy : s.tx.state ≠ .rest := by
    intro hs
    rw [h.timerMatchesState, hs] at harmed
    cases harmed
  obtain ⟨t, ht, hrest⟩ := exec_expire_rest_iff h harmed
  have hexpire : exec .expire { s with port := ⟨[], some .busy⟩ } = .next t :=
    (exec_expire_armed harmed).trans ((exec_expire_armed harmed).symm.trans ht)
  refine ⟨_, t, exec_send_busy m hbusy, rfl, ht, hexpire, hrest, exec_send_busy m, fun hs => ?_⟩
  obtain ⟨hconfig, -⟩ := txRoutine_frame (exec_expire_next ht)
  exact ⟨_, exec_send_at_rest m (exec_keeps_inv rfl h ht) hs, rfl, rfl, by rw [hconfig]; rfl⟩

/-- Settles O28: END's evaluation alone counts a hook, and of the operations only EXPIRE comes to it. -/
theorem hookComesFromEndAlone : Obligations.HookComesFromEndAlone := by
  intro s t i hinv h
  obtain hi | hi | hi | hi | ⟨x, rfl⟩ := instr_kinds i
  · exact .inr (.inl hi)
  · obtain ⟨d, rfl⟩ := exec_edge_next hi h
    exact .inl rfl
  · obtain ⟨hframe, -⟩ := exec_pollStep_frame hi h
    exact .inl (congrArg (·.hookCount) hframe)
  · cases i with
    | send m =>
      by_cases hs : s.tx.state = .rest
      · cases (exec_send_at_rest m hinv hs).symm.trans h
        exact .inl rfl
      · cases (exec_send_busy m hs).symm.trans h
        exact .inl rfl
    | expire =>
      cases harmed : s.timer.armed with
      | false => cases (exec_expire_refused harmed).symm.trans h
      | true =>
        obtain ⟨t', ht', ⟨-, hended⟩ | ⟨-, hgoes⟩⟩ := exec_expire_cases hinv harmed
        all_goals obtain rfl : t = t' := Host.Outcome.next.inj (h.symm.trans ht')
        · obtain ⟨cs, -, hcalls⟩ := hended.calls
          refine .inr (.inr (.inr ⟨rfl, hended.hookCount, congrArg TxSession.state hended.session, ?_⟩))
          rw [hcalls]
          exact List.mem_append_right _ (by decide)
        · exact .inl hgoes.hookCount
    | busoff => exact .inl (congrArg (·.hookCount) (exec_busoff_next h))
    | buson =>
      obtain ⟨-, -, henabled, hdisabled⟩ := busoffAndBusonSwitchTheBus s
      by_cases hd : s.tx.state = .disabled
      · cases (hdisabled hd).symm.trans h
        exact .inl rfl
      · cases (henabled hd).symm.trans h
        exact .inl rfl
    | reset | edgeL | edgeH | poll | pbegin | pcmp | pend | txRest | txStart | txEnHiA | txEnLoA | txEnHiB | txBit
    | txClk | txRgap | txRenLo | txRenHi | txEnd | txDisabled => cases hi
  · by_cases hx : x = .endSeq
    · rw [hx]
      exact .inr (.inr (.inl rfl))
    · rw [exec_instr] at h
      exact .inl (routineTurn_hookCount hx h)

end Sys2Proof.Machine
end

section
/-! A whole session, EXPIRE by EXPIRE (R89): since the run to rest completes, the timer is armed before each EXPIRE,
and only the last one ends the session. -/

namespace Sys2Proof.Machine

theorem execAll_of_execAllCalls : ∀ {is : List Instr} {s t : State} {cs : List Call},
    execAllCalls is s = some (cs, t) → execAll is s = .next t := by
  intro is
  induction is with
  | nil => intro s t cs h; cases h; rfl
  | cons i is ih =>
    intro s t cs h
    simp only [execAllCalls] at h
    split at h
    next u hu =>
      obtain ⟨⟨cs', t'⟩, hrun, heq⟩ := Option.map_eq_some_iff.1 h
      cases heq
      rw [execAll, hu, andThen_next, ih hrun]
    next => cases h
    next => cases h

theorem execAll_expires_succ (n : Nat) (s : State) :
    execAll (expires (n + 1)) s = andThen (exec .expire s) (execAll (expires n)) := rfl

/-- A run of EXPIREs from a disarmed timer is empty (R81). -/
theorem eq_of_expires_disarmed {n : Nat} {s t : State} (harmed : s.timer.armed = false)
    (h : execAll (expires n) s = .next t) : n = 0 ∧ t = s := by
  cases n with
  | zero => cases h; exact ⟨rfl, rfl⟩
  | succ n => rw [execAll_expires_succ, exec_expire_refused harmed] at h; cases h

/-- `u` is inside the session of `s`: the same message, no hook yet, and the timer armed for the next EXPIRE (R89). -/
structure StillInSession (s u : State) : Prop where
  buffer : u.tx.buffer = s.tx.buffer
  state : u.tx.state ≠ .rest
  armed : u.timer.armed = true
  hookCount : u.hookCount = s.hookCount

theorem StillInSession.refl {s : State} (h : Inv s) (harmed : s.timer.armed = true) : StillInSession s s := by
  refine ⟨rfl, fun hs => ?_, harmed, rfl⟩
  rw [h.timerMatchesState, hs] at harmed
  cases harmed

theorem StillInSession.trans {s u v : State} (h : StillInSession s u) (h' : StillInSession u v) :
    StillInSession s v :=
  ⟨h'.buffer.trans h.buffer, h'.state, h'.armed, h'.hookCount.trans h.hookCount⟩

/-- What is left of a session that a run of `n` EXPIREs completes, from `s` to `t` (R72, R89). -/
structure RunsToRest (n : Nat) (s t : State) : Prop where
  run : runTimer n s = .next t
  session : t.tx = ⟨.rest, 0, false, s.tx.buffer⟩
  lines : t.lines = restLines
  disarmed : t.timer.armed = false
  hookCount : t.hookCount = s.hookCount + 1
  val : t.val = s.val
  scan : t.scan = s.scan
  before : ∀ k < n, ∃ u, execAll (expires k) s = .next u ∧ StillInSession s u

theorem runTimer_succ {n : Nat} {s u : State} (harmed : s.timer.armed = true) (h : exec .expire s = .next u) :
    runTimer (n + 1) s = runTimer n u := by
  rw [runTimer, if_pos harmed, h, andThen_next]

/-- EXPIREs that lead from an armed timer to rest are one session run to its end (R89). -/
theorem runsToRest_of_execAll : ∀ (n : Nat) {s t : State}, Inv s → s.timer.armed = true →
    execAll (expires n) s = .next t → t.tx.state = .rest → RunsToRest n s t := by
  intro n
  induction n with
  | zero =>
    intro s t h harmed hrun hrest
    cases hrun
    exact absurd hrest (StillInSession.refl h harmed).state
  | succ n ih =>
    intro s t h harmed hrun hrest
    obtain ⟨u, hu, hcase⟩ := exec_expire_cases h harmed
    have hinv := exec_keeps_inv rfl h hu
    obtain ⟨-, -, hval, hscan, -, hbuffer, -⟩ := txRoutine_frame (exec_expire_next hu)
    rw [execAll_expires_succ, hu, andThen_next] at hrun
    have hstep := runTimer_succ (n := n) harmed hu
    obtain ⟨-, hended⟩ | ⟨-, hgoes⟩ := hcase
    · have hdisarmed : u.timer.armed = false := congrArg Timer.armed hended.timer
      obtain ⟨rfl, rfl⟩ := eq_of_expires_disarmed hdisarmed hrun
      refine ⟨hstep, hended.session, hended.lines, hdisarmed, hended.hookCount, hval, hscan, fun k hk => ?_⟩
      obtain rfl : k = 0 := by omega
      exact ⟨s, rfl, .refl h harmed⟩
    · have hrec := ih hinv hgoes.armed hrun hrest
      have hstill : StillInSession s u := ⟨hbuffer, hgoes.state, hgoes.armed, hgoes.hookCount⟩
      refine ⟨hstep.trans hrec.run, hrec.session.trans (congrArg _ hbuffer), hrec.lines, hrec.disarmed,
        hrec.hookCount.trans (congrArg (· + 1) hgoes.hookCount), hrec.val.trans hval, hrec.scan.trans hscan, ?_⟩
      intro k hk
      cases k with
      | zero => exact ⟨s, rfl, .refl h harmed⟩
      | succ k =>
        obtain ⟨v, hv, hin⟩ := hrec.before k (by omega)
        exact ⟨v, by rw [execAll_expires_succ, hu, andThen_next, hv], hstill.trans hin⟩

/-- Settles O30: the session's calls are known to end at rest, so its EXPIREs are a session run to its end. -/
theorem sessionRunsToRest : Obligations.SessionRunsToRest := by
  intro s m h hs
  have hsend := exec_send_at_rest m h hs
  have hinv := exec_keeps_inv rfl h hsend
  obtain ⟨calls, t, hrun, -, hend⟩ := SessionAt.toRest (k := s.config) (m := m) ⟨hinv, rfl, rfl⟩
  have hall := execAll_of_execAllCalls hrun
  have hdone := runsToRest_of_execAll _ hinv rfl hall (congrArg TxSession.state hend.session)
  refine ⟨_, t, hsend, hall, hdone.run, hend.session, hdone.lines, hdone.disarmed, hdone.hookCount, hdone.val,
    hdone.scan, fun k hk => ?_⟩
  obtain ⟨u, hu, hin⟩ := hdone.before k hk
  exact ⟨u, hu, hin.buffer, hin.state, hin.armed, hin.hookCount, fun m' => exec_send_busy m' hin.state⟩

/-- Settles O31. -/
theorem sessionMakesTheFrame : Obligations.SessionMakesTheFrame := by
  intro s m h hs
  obtain ⟨calls, t, hrun, hcalls, -⟩ := execAllCalls_session m h hs
  exact ⟨calls, t, hrun, hcalls⟩

/-- The ticks of the first bit cells of a pass (R61). -/
theorem armedTicks_cellCalls (m : Message) (k : Config) : ∀ n < 56,
    armedTicks (cellCalls m k n) = n * (k.t40 + k.t65) := by
  intro n
  induction n with
  | zero => intro _; rw [Nat.zero_mul]; rfl
  | succ n ih =>
    intro hn
    have hcell : armedTicks (bitCalls m k ⟨n, by omega⟩ ++ clkCalls k ⟨n, by omega⟩) = k.t40 + k.t65 := by
      rw [clkCalls, if_pos (by simp only; omega)]
      rfl
    rw [cellCalls_succ m k (by omega), armedTicks_append, ih (by omega), hcell, Nat.succ_mul]

/-- A pass takes a half cell more than it has gaps between its bits (R62). -/
theorem armedTicks_passCalls (m : Message) (k : Config) : armedTicks (passCalls m k) = 56 * k.t40 + 55 * k.t65 := by
  have hbit : armedTicks (bitCalls m k 55) = k.t40 := rfl
  have hrise : armedTicks [.setLine .clock .high] = 0 := rfl
  rw [passCalls_eq, armedTicks_append, armedTicks_append, armedTicks_cellCalls m k 55 (by decide), hbit, hrise]
  omega

/-- The ticks of the whole frame (R62). -/
theorem armedTicks_frameCalls (m : Message) (k : Config) : armedTicks (frameCalls m k) = sessionTicks k := by
  have hopening : armedTicks (openingCalls k) = k.t100 + (k.t100 + (k.t100 + k.t60)) := rfl
  have hreframe : armedTicks (reframeCalls k) = k.t40 + (k.t100 + k.t60) := rfl
  have hhold : armedTicks (holdCalls k) = k.tEndHold := by
    rw [holdCalls]
    split
    next => rfl
    next hnone => exact (Nat.eq_zero_of_not_pos hnone).symm
  have hclosing : armedTicks closingCalls = 0 := rfl
  simp only [frameCalls, armedTicks_append, armedTicks_passCalls, hopening, hreframe, hhold, hclosing, sessionTicks]
  omega

/-- Settles O33: RX's own reads take no ticks, and the rest of the calls is the frame. -/
theorem sessionTicksAddUp : Obligations.SessionTicksAddUp := by
  intro s m h hs
  obtain ⟨calls, t, hrun, hcalls, -⟩ := execAllCalls_session m h hs
  refine ⟨calls, t, hrun, ?_⟩
  rw [← armedTicks_filter, hcalls, armedTicks_frameCalls]

end Sys2Proof.Machine
end

section
/-! What received bits do to RX and leave alone (R57, R120). -/

namespace Sys2Proof.Machine

/-- The frame of received bits: the cursor moves by their number, any of them sets the dirty flag, and nothing changes
but RX, the input lines and the boundary record (R120). -/
theorem execAll_rxbits_frame : ∀ {bs : List Bool} {s t : State}, execAll (rxbits bs) s = .next t →
    t.rx.cursor.val = (s.rx.cursor.val + bs.length) % 112 ∧ t.rx.dirty = (s.rx.dirty || !bs.isEmpty) ∧
      t = { s with rx := t.rx, inp := t.inp, port := t.port } := by
  intro bs
  induction bs with
  | nil =>
    intro s t h
    cases h
    exact ⟨(Nat.mod_eq_of_lt s.rx.cursor.isLt).symm, by simp, rfl⟩
  | cons b bs ih =>
    intro s t h
    obtain ⟨u, hu, hrest⟩ := andThen_eq_next.1 h
    obtain ⟨d, rfl⟩ := exec_edge_next (by cases b <;> rfl) hu
    obtain ⟨hcursor, hdirty, hframe⟩ := ih hrest
    refine ⟨?_, ?_, hframe⟩
    · have hstep : (capture d (driveEdge d (beginOp s))).rx.cursor.val = (s.rx.cursor.val + 1) % 112 := rfl
      rw [hcursor, hstep, List.length_cons]
      omega
    · rw [hdirty]
      simp

/-- Settles O36. -/
theorem ringIsTheLastSamples : Obligations.RingIsTheLastSamples := by
  intro s bs
  obtain ⟨t, ht, hwindow, -⟩ := execAll_rxbits bs s
  exact ⟨t, ht, hwindow, execAll_rxbits_frame ht⟩

end Sys2Proof.Machine
end

section
/-! Without `LOOPBACK` the transmitter does not see RX and the input lines, so EXPIRE and EDGE commute (R154). -/

namespace Sys2Proof.Machine

/-- The core with another receiver. -/
def withReceiver (r : RxRing) (l : InputLines) (s : State) : State := { s with rx := r, inp := l }

/-- Without `LOOPBACK` a CLOCK write is the line and its call. -/
theorem setClock_noLoop {s : State} (hloop : s.config.loopback = false) (v : Level) :
    setClock v s = record (.setLine .clock v) { s with lines.clock := v } := by
  rw [setClock_eq, rxAfterClock_noLoop hloop]
  simp [clockCalls, loopsBack, hloop, record]

theorem setClock_withReceiver {s : State} (hloop : s.config.loopback = false) (v : Level) (r : RxRing)
    (l : InputLines) : setClock v (withReceiver r l s) = withReceiver r l (setClock v s) := by
  rw [setClock_noLoop (s := s) hloop, setClock_noLoop (s := withReceiver r l s) hloop]
  rfl

theorem setRestLevels_withReceiver {s : State} (hloop : s.config.loopback = false) (r : RxRing) (l : InputLines) :
    setRestLevels (withReceiver r l s) = withReceiver r l (setRestLevels s) :=
  congrArg (setData .high) (setClock_withReceiver (s := setEnable .low s) hloop .high r l)

/-- An evaluation does not see the receiver. -/
theorem evaluate_withReceiver (x : TxState) {s : State} (hloop : s.config.loopback = false) (r : RxRing)
    (l : InputLines) :
    evaluate x (withReceiver r l s) = { evaluate x s with after := withReceiver r l (evaluate x s).after } := by
  cases x with
  | rest => simp only [evaluate, evalRest, setRestLevels_withReceiver hloop]; rfl
  | start => simp only [evaluate, evalStart, setRestLevels_withReceiver hloop]; rfl
  | bit =>
    have hbit := setClock_withReceiver (s := setData (lvl (bufBit s s.tx.bitCursor)) s) hloop .low r l
    exact congrArg (Evaluation.mk · _ _) hbit
  | clk =>
    simp only [evaluate, evalClk, setClock_withReceiver hloop]
    split
    next hmid => rw [dif_pos (by exact hmid)]; rfl
    next hlast =>
      rw [dif_neg (by exact hlast)]
      split
      next hpass => rw [if_pos (by exact hpass)]; rfl
      next hpass => rw [if_neg (by exact hpass)]; rfl
  | enHiA | enLoA | enHiB | rgap | renLo | renHi | endSeq | disabled => rfl

theorem routineTurn_withReceiver {x : TxState} {s u : State} (hloop : s.config.loopback = false) (r : RxRing)
    (l : InputLines) (h : routineTurn x (evaluate x s) = .next u) :
    routineTurn x (evaluate x (withReceiver r l s)) = .next (withReceiver r l u) := by
  rw [evaluate_withReceiver x hloop]
  obtain ⟨hdelay, harmed, hmax, rfl⟩ | ⟨hdelay, rfl⟩ := routineTurn_next h
  · exact routineTurn_timed hdelay harmed hmax
  · exact routineTurn_immediate hdelay

/-- The routine does not see the receiver (R154). -/
theorem txRoutineFuel_withReceiver (r : RxRing) (l : InputLines) : ∀ (n : Nat) {s t : State},
    s.config.loopback = false → txRoutineFuel n s = .next t →
    txRoutineFuel n (withReceiver r l s) = .next (withReceiver r l t) := by
  intro n
  induction n with
  | zero => intro s t _ h; cases h
  | succ n ih =>
    intro s t hloop h
    obtain ⟨u, hu, hrest⟩ := andThen_eq_next.1 h
    obtain ⟨hconfig, -⟩ := routineTurn_frame hu
    have hstate : (withReceiver r l s).tx.state = s.tx.state := rfl
    have hactive : (withReceiver r l u).routineActive = u.routineActive := rfl
    rw [txRoutineFuel, hstate, routineTurn_withReceiver hloop r l hu, andThen_next, hactive]
    cases hact : u.routineActive with
    | true =>
      rw [if_pos hact] at hrest
      exact ih (hconfig ▸ hloop) hrest
    | false =>
      rw [if_neg (by simp [hact])] at hrest
      cases hrest
      rfl

/-- EXPIRE sees neither the receiver nor the boundary record (R154, log 8). -/
theorem exec_expire_withReceiver {s t : State} (hloop : s.config.loopback = false) (harmed : s.timer.armed = true)
    (h : exec .expire s = .next t) (r : RxRing) (l : InputLines) (p : Port) :
    exec .expire { s with rx := r, inp := l, port := p } = .next (withReceiver r l t) :=
  (exec_expire_armed (s := { s with rx := r, inp := l, port := p }) harmed).trans
    (txRoutineFuel_withReceiver r l 3 (s := afterExpiry s) hloop (exec_expire_next h))

/-- Settles O39: EXPIRE leaves the receiver as EDGE finds it, and EDGE is another receiver for EXPIRE. -/
theorem interruptsCommute : Obligations.InterruptsCommute := by
  intro s e h harmed hloop he
  obtain ⟨d, hedge⟩ := exec_edge he
  obtain ⟨t, ht⟩ := exec_expire_ok h.legalBuild harmed
  obtain ⟨hconfig, -⟩ := txRoutine_frame (exec_expire_next ht)
  have hrx : t.rx = s.rx := txRoutine_rx (s := afterExpiry s) hloop (exec_expire_next ht)
  refine ⟨t, _, _, _, ht, hedge t, hedge s, exec_expire_withReceiver hloop harmed ht _ _ _, ?_⟩
  have hreceived : (capture d (driveEdge d (beginOp t))).rx = (capture d (driveEdge d (beginOp s))).rx := by
    simp only [capture_rx, driveEdge_rx, beginOp_rx, hrx]
  have hdriven : (driveEdge d (beginOp t)).inp = (driveEdge d (beginOp s)).inp := by
    simp only [driveEdge_inp, beginOp_config, hconfig, afterExpiry_config]
  exact congrArg₂ (fun r l => { t with rx := r, inp := l }) hreceived hdriven

end Sys2Proof.Machine
end

section
/-! The tick arithmetic (R5, R6). -/

namespace Sys2Proof.Machine

/-- The tick formula is the floor of the exact quotient plus one half (R6). -/
theorem ticksOf_bounds (d f : Nat) :
    16000000 * ticksOf d f ≤ 2 * (d * f) + 8000000 ∧ 2 * (d * f) + 8000000 < 16000000 * (ticksOf d f + 1) := by
  simp only [ticksOf, prescale]
  omega

/-- Settles O55. -/
theorem tickFormulaGivesBothTables : Obligations.TickFormulaGivesBothTables :=
  ⟨by decide, by decide, by decide, ticksOf_bounds⟩

/-- A duration of at least 40 µs is at least half a tick from 100 kHz on (R7). -/
theorem one_le_ticksOf {d f : Nat} (hd : 40 ≤ d) (hf : 100000 ≤ f) : 1 ≤ ticksOf d f := by
  have hproduct : 40 * 100000 ≤ d * f := Nat.mul_le_mul hd hf
  obtain ⟨-, hlt⟩ := ticksOf_bounds d f
  omega

/-- Settles O56. -/
theorem noDurationRoundsToZero : Obligations.NoDurationRoundsToZero := by
  intro f hf t ht
  obtain ⟨d, hd, rfl⟩ := List.mem_map.1 ht
  have hshortest : ∀ d ∈ [40, 60, 65, 100], 40 ≤ d := by decide
  exact one_le_ticksOf (hshortest d hd) hf

end Sys2Proof.Machine
end

section
/-! The output ports after each operation (R166). -/

namespace Sys2Proof.Machine

theorem levelBit_eq_true_iff (v : Level) : levelBit v = true ↔ v = .high := by cases v <;> decide

/-- Line calls arm nothing. -/
theorem armedBy_append {cs : List Call} (h : ∀ c ∈ cs, isLineCall c = true) (ds : List Call) :
    armedBy (cs ++ ds) = armedBy ds := by
  induction cs with
  | nil => rfl
  | cons c cs ih =>
    obtain ⟨hc, hcs⟩ := List.forall_mem_cons.1 h
    cases c with
    | setLine _ _ | readData _ => exact ih hcs
    | armTimer _ | disarmTimer | hook => cases hc

/-- A call that is no line call is not among line calls. -/
theorem contains_append {cs : List Call} (h : ∀ c ∈ cs, isLineCall c = true) {d : Call} (hd : isLineCall d = false)
    (ds : List Call) : (cs ++ ds).contains d = ds.contains d := by
  have hnot : d ∉ cs := fun hmem => by simp [h d hmem] at hd
  simp [hnot]

/-- What the ports show of the calls of an operation that made line calls and then `ds` (R165, R166). -/
theorem portOutputs_of_calls {t : State} {cs ds : List Call} (hcs : ∀ c ∈ cs, isLineCall c = true)
    (hcalls : t.port.calls = cs ++ ds) :
    (portOutputs t).timerArm = (armedBy ds).isSome ∧ (portOutputs t).timerTicks = (armedBy ds).getD 0 ∧
      (portOutputs t).timerDisarm = ds.contains .disarmTimer ∧ (portOutputs t).hook = ds.contains .hook := by
  simp only [portOutputs, hcalls, armedBy_append hcs, contains_append hcs (d := .disarmTimer) rfl,
    contains_append hcs (d := .hook) rfl, and_self]

/-- The ports after an accepted SEND (R80). -/
theorem portOutputs_send_accepted {s : State} (m : Message) (h : Inv s) (hs : s.tx.state = .rest) :
    ∃ t, exec (.send m) s = .next t ∧ (portOutputs t).sendBusy = false ∧ (portOutputs t).timerArm = true ∧
      (portOutputs t).timerTicks = s.config.t100 ∧ (portOutputs t).timerDisarm = false ∧
      (portOutputs t).hook = false ∧ (portOutputs t).pollSome = false :=
  ⟨_, exec_send_at_rest m h hs, rfl, rfl, rfl, by simp [portOutputs, openingCalls],
    by simp [portOutputs, openingCalls], rfl⟩

/-- The ports after the EXPIRE that ends the session (R88, D7, D12). -/
theorem SessionEnded.ports {s t : State} (h : SessionEnded s t) :
    (portOutputs t).hook = true ∧ (portOutputs t).timerDisarm = true ∧ (portOutputs t).timerArm = false := by
  obtain ⟨cs, hcs, hcalls⟩ := h.calls
  obtain ⟨harm, -, hdisarm, hhook⟩ := portOutputs_of_calls hcs hcalls
  rw [harm, hdisarm, hhook]
  decide

/-- The ports after any other EXPIRE (R84). -/
theorem SessionGoesOn.ports {s t : State} (h : SessionGoesOn s t) :
    (portOutputs t).hook = false ∧ (portOutputs t).timerDisarm = false ∧ (portOutputs t).timerArm = true ∧
      t.timer = ⟨true, (portOutputs t).timerTicks⟩ := by
  obtain ⟨cs, hcs, hcalls⟩ := h.calls
  obtain ⟨harm, hticks, hdisarm, hhook⟩ := portOutputs_of_calls hcs hcalls
  rw [harm, hticks, hdisarm, hhook]
  refine ⟨by simp, by simp, rfl, ?_⟩
  rw [← h.armed]
  rfl

/-- The ports after BUSOFF (R82). -/
theorem portOutputs_busoff (s : State) : ∃ t, exec .busoff s = .next t ∧
    (portOutputs t).sendBusy = decide (s.tx.state ≠ .rest ∧ s.tx.state ≠ .disabled) ∧
    (portOutputs t).timerArm = false ∧ (portOutputs t).timerDisarm = false ∧ (portOutputs t).hook = false := by
  obtain ⟨hrest, hdisabled, -⟩ := busoffAndBusonSwitchTheBus s
  by_cases hr : s.tx.state = .rest
  · exact ⟨_, hrest hr, by simp [portOutputs, hr], rfl, rfl, rfl⟩
  · by_cases hd : s.tx.state = .disabled
    · exact ⟨_, hdisabled hd, by simp [portOutputs, hd], rfl, rfl, rfl⟩
    · exact ⟨_, exec_busoff_busy hr hd, by simp [portOutputs, hr, hd], rfl, rfl, rfl⟩

/-- The ports after a BUSON that leaves DISABLED (R83, D12). -/
theorem portOutputs_buson {s : State} (hs : s.tx.state = .disabled) : ∃ t, exec .buson s = .next t ∧
    (portOutputs t).timerDisarm = true ∧ (portOutputs t).timerArm = false ∧ (portOutputs t).hook = false := by
  obtain ⟨-, -, -, hdisabled⟩ := busoffAndBusonSwitchTheBus s
  have hcs : ∀ c ∈ Call.setLine .enable .low :: clockCalls .high s.lines.data s, isLineCall c = true :=
    List.forall_mem_cons.2 ⟨rfl, isLineCall_of_mem_clockCalls⟩
  have hports : ∀ t : State, t.port.calls = .setLine .enable .low :: clockCalls .high s.lines.data s ++
        [.setLine .data .high, .disarmTimer] →
      (portOutputs t).timerDisarm = true ∧ (portOutputs t).timerArm = false ∧ (portOutputs t).hook = false := by
    intro t hcalls
    obtain ⟨harm, -, hdisarm, hhook⟩ := portOutputs_of_calls hcs hcalls
    rw [harm, hdisarm, hhook]
    decide
  exact ⟨_, hdisabled hs, hports _ rfl⟩

/-- The ports after the PEND of 56 pairs (R133). -/
theorem portOutputs_pend {s : State} (hact : s.scan.active = true) (hi : s.scan.i.val = 56) :
    ∃ t, exec .pend s = .next t ∧
      (s.scan.ok01 = true ∧ s.rx.dirty = false →
        (portOutputs t).pollSome = true ∧ (portOutputs t).pollMsg = messageWord (pack s.scan.snap) ∧
        (portOutputs t).lastValid = messageWord (pack s.scan.snap) ∧ (portOutputs t).isValid = true) ∧
      (s.scan.ok01 = false ∨ s.rx.dirty = true → (portOutputs t).pollSome = false) := by
  by_cases hgood : s.scan.ok01 = true ∧ s.rx.dirty = false
  · obtain ⟨hok, hclean⟩ := hgood
    exact ⟨_, exec_pend_of_clean hact hi hok hclean, fun _ => ⟨rfl, rfl, rfl, rfl⟩, by simp [hok, hclean]⟩
  · have hbad : scanIsClean s = false := by simpa [scanIsClean] using hgood
    exact ⟨_, exec_pend_of_unclean hact hi hbad, fun h => absurd h hgood, fun _ => rfl⟩

/-- Settles O58. -/
theorem portOutputsShowTheOperation : Obligations.PortOutputsShowTheOperation := by
  refine ⟨fun s => ⟨levelBit_eq_true_iff _, levelBit_eq_true_iff _, levelBit_eq_true_iff _, rfl, rfl, rfl⟩,
    fun s m => portOutputs_send_accepted m, fun s m hs => ⟨_, exec_send_busy m hs, rfl, rfl, rfl, rfl⟩,
    fun s h harmed => ?_, portOutputs_busoff, fun s => portOutputs_buson, fun s => portOutputs_pend,
    fun s hact hi hne => ⟨_, exec_pcmp_of_disagree hact hi hne, rfl⟩⟩
  obtain ⟨t, ht, ⟨hend, hended⟩ | ⟨hend, hgoes⟩⟩ := exec_expire_cases h harmed
  · exact ⟨t, ht, fun _ => hended.ports, fun hnot => absurd hend hnot⟩
  · exact ⟨t, ht, fun hends => absurd hends hend, fun _ => hgoes.ports⟩

end Sys2Proof.Machine
end
